-- ==== Sys2Proof/Word.lean ====
section
/-! DEFINITION. The widths of the machine's words (spec 00_scope.md R5, R6: every value is unsigned). -/

namespace Sys2Proof

/-- `REG_W` = 8 bits: a general register, a timer, a byte of memory (R5). -/
abbrev Byte := BitVec 8

/-- 16 bits: an instruction word, the index register, the program counter, a stack entry (R5, R90). -/
abbrev Word := BitVec 16

/-- The 12-bit address field `nnn` (R91). -/
abbrev Addr := BitVec 12

/-- One hexadecimal digit of an instruction word (R6, R91). -/
abbrev Nibble := BitVec 4

/-- The number of a general register, 0 to F (R21, R91). -/
abbrev Reg := Fin 16

/-- The number of a key, 0 to F (R28). -/
abbrev Key := Fin 16

end Sys2Proof
end

