-- ==== Sys2Proof/Config.lean ====
section
/-! DEFINITION. What this hardware fixes (spec 00_scope.md R5) and the values the spec leaves free
(41_immediate_random.md R142; 60_exceptions.md R202). -/

namespace Sys2Proof

/-- Which register the two shift instructions read (R5 `SHIFT_SRC`, 92_eei_decisions.md D8). -/
inductive ShiftSource where
  | x
  | y
deriving DecidableEq, Repr

/-- The parameters of R5, one field a row. -/
structure Parameters where
  /-- `MEM_SIZE`: bytes of memory. -/
  memSize : Nat
  /-- `NREG`: general registers. -/
  nreg : Nat
  /-- `REG_W`: bits of a register, a timer, a memory byte. -/
  regW : Nat
  /-- `I_W`: bits of the index register. -/
  iW : Nat
  /-- `PC_W`: bits of the program counter and of a stack entry. -/
  pcW : Nat
  /-- `INSTR_BYTES`: bytes of one instruction. -/
  instrBytes : Nat
  /-- `DISP_W`: display columns. -/
  dispW : Nat
  /-- `DISP_H`: display rows. -/
  dispH : Nat
  /-- `NKEYS`: key flags. -/
  nkeys : Nat
  /-- `FONT_BASE`: address of glyph 0. -/
  fontBase : Nat
  /-- `GLYPH_BYTES`: bytes of a glyph. -/
  glyphBytes : Nat
  /-- `FONT_REGION_END`: last address reserved (by convention only, R61, R68) for the font. -/
  fontRegionEnd : Nat
  /-- `PROG_BASE`: load address of a ROM and reset value of PC. -/
  progBase : Nat
  /-- `FONT`: the glyph bytes (R62). -/
  font : List Byte
  /-- `STACK_DEPTH`: call-stack capacity, `none` for unbounded. -/
  stackDepth : Option Nat
  /-- `TIMER_HZ`: nominal rate of `tick`; no rule depends on it. -/
  timerHz : Nat
  /-- `SHIFT_SRC`. -/
  shiftSrc : ShiftSource
  /-- `MEMOP_INCREMENTS_I`: whether the two register transfers advance `I`. -/
  memopIncrementsI : Bool
deriving DecidableEq, Repr

/-- R62's table, digits 0 to 7, read row by row. PRESUMED: the spec marks these bytes as general knowledge
(unsafe, log 1). -/
def Config.glyphs0to7 : List Byte :=
  [0xF0, 0x90, 0x90, 0x90, 0xF0,  0x20, 0x60, 0x20, 0x20, 0x70,
   0xF0, 0x10, 0xF0, 0x80, 0xF0,  0xF0, 0x10, 0xF0, 0x10, 0xF0,
   0x90, 0x90, 0xF0, 0x10, 0x10,  0xF0, 0x80, 0xF0, 0x10, 0xF0,
   0xF0, 0x80, 0xF0, 0x90, 0xF0,  0xF0, 0x10, 0x20, 0x40, 0x40]

/-- R62's table, digits 8 to F, read row by row. PRESUMED (unsafe, log 1). -/
def Config.glyphs8toF : List Byte :=
  [0xF0, 0x90, 0xF0, 0x90, 0xF0,  0xF0, 0x90, 0xF0, 0x10, 0xF0,
   0xF0, 0x90, 0xF0, 0x90, 0x90,  0xE0, 0x90, 0xE0, 0x90, 0xE0,
   0xF0, 0x80, 0x80, 0x80, 0xF0,  0xE0, 0x90, 0x90, 0x90, 0xE0,
   0xF0, 0x80, 0xF0, 0x80, 0xF0,  0xF0, 0x80, 0xF0, 0x80, 0x80]

/-- R5: the value this hardware takes for every parameter. -/
def Config.hw : Parameters where
  memSize := 4096
  nreg := 16
  regW := 8
  iW := 16
  pcW := 16
  instrBytes := 2
  dispW := 64
  dispH := 32
  nkeys := 16
  fontBase := 0x000
  glyphBytes := 5
  fontRegionEnd := 0x1FF
  progBase := 0x200
  font := Config.glyphs0to7 ++ Config.glyphs8toF
  stackDepth := none
  timerHz := 60
  shiftSrc := .x
  memopIncrementsI := false

@[simp] theorem Config.hw_memSize : Config.hw.memSize = 4096 := rfl
@[simp] theorem Config.hw_instrBytes : Config.hw.instrBytes = 2 := rfl
@[simp] theorem Config.hw_fontBase : Config.hw.fontBase = 0 := rfl
@[simp] theorem Config.hw_glyphBytes : Config.hw.glyphBytes = 5 := rfl
@[simp] theorem Config.hw_progBase : Config.hw.progBase = 0x200 := rfl
@[simp] theorem Config.hw_font : Config.hw.font = Config.glyphs0to7 ++ Config.glyphs8toF := rfl
@[simp] theorem Config.hw_stackDepth : Config.hw.stackDepth = none := rfl
@[simp] theorem Config.hw_shiftSrc : Config.hw.shiftSrc = .x := rfl
@[simp] theorem Config.hw_memopIncrementsI : Config.hw.memopIncrementsI = false := rfl

/-- The free bytes: `Config.freeByte k` is the k-th byte the machine draws. R142's `rnd` ("a free draw, any value
0 to 255") and the bytes and registers R202 leaves unspecified. No body: nothing can be proved of a value (safe,
log 4, log 5). -/
opaque Config.freeByte : Nat → Byte

/-- The free display cells R202 leaves unspecified after a data fault of `DRW`: `Config.freeCell k r c` is row `r`,
column `c` of the display of the k-th draw (safe, log 5). No body. -/
opaque Config.freeCell : Nat → Fin 32 → Fin 64 → Bool

end Sys2Proof
end

