-- ==== Sys2Proof/Syntax.lean ====
section
/-! DEFINITION. The 34 instructions (spec 30_encoding.md R95), one constructor per row of the opcode table, each
with its decoded operands (00_scope.md R13 (4)). The operand types are exactly the field widths of R91, so no
constructor can be built with an operand that does not fit its field (log 27). -/

namespace Sys2Proof

inductive Instr where
  /-- `CLS` 00E0 (R180) -/
  | cls
  /-- `RET` 00EE (R121) -/
  | ret
  /-- `JP nnn` 1nnn (R122) -/
  | jp (nnn : Addr)
  /-- `CALL nnn` 2nnn (R123) -/
  | call (nnn : Addr)
  /-- `SE Vx,nn` 3xnn (R124) -/
  | seImm (x : Reg) (nn : Byte)
  /-- `SNE Vx,nn` 4xnn (R125) -/
  | sneImm (x : Reg) (nn : Byte)
  /-- `SE Vx,Vy` 5xy0 (R126) -/
  | seReg (x y : Reg)
  /-- `LD Vx,nn` 6xnn (R140) -/
  | ldImm (x : Reg) (nn : Byte)
  /-- `ADD Vx,nn` 7xnn (R141) -/
  | addImm (x : Reg) (nn : Byte)
  /-- `LD Vx,Vy` 8xy0 (R151) -/
  | ldReg (x y : Reg)
  /-- `OR Vx,Vy` 8xy1 (R152) -/
  | orReg (x y : Reg)
  /-- `AND Vx,Vy` 8xy2 (R153) -/
  | andReg (x y : Reg)
  /-- `XOR Vx,Vy` 8xy3 (R154) -/
  | xorReg (x y : Reg)
  /-- `ADD Vx,Vy` 8xy4 (R155) -/
  | addReg (x y : Reg)
  /-- `SUB Vx,Vy` 8xy5 (R156) -/
  | sub (x y : Reg)
  /-- `SHR Vx` 8xy6 (R157); the `y` field is decoded and, while `SHIFT_SRC` is X, not used (R96) -/
  | shr (x y : Reg)
  /-- `SUBN Vx,Vy` 8xy7 (R158) -/
  | subn (x y : Reg)
  /-- `SHL Vx` 8xyE (R159); `y` as in `shr` -/
  | shl (x y : Reg)
  /-- `SNE Vx,Vy` 9xy0 (R127) -/
  | sneReg (x y : Reg)
  /-- `LD I,nnn` Annn (R170) -/
  | ldI (nnn : Addr)
  /-- `JP V0,nnn` Bnnn (R128) -/
  | jpV0 (nnn : Addr)
  /-- `RND Vx,nn` Cxnn (R142) -/
  | rnd (x : Reg) (nn : Byte)
  /-- `DRW Vx,Vy,n` Dxyn (R181); `n` is a row count, 0 to 15 (R93) -/
  | drw (x y : Reg) (n : Fin 16)
  /-- `SKP Vx` Ex9E (R190) -/
  | skp (x : Reg)
  /-- `SKNP Vx` ExA1 (R191) -/
  | sknp (x : Reg)
  /-- `LD Vx,DT` Fx07 (R193) -/
  | ldVxDt (x : Reg)
  /-- `LD Vx,K` Fx0A (R192) -/
  | ldVxK (x : Reg)
  /-- `LD DT,Vx` Fx15 (R194) -/
  | ldDtVx (x : Reg)
  /-- `LD ST,Vx` Fx18 (R195) -/
  | ldStVx (x : Reg)
  /-- `ADD I,Vx` Fx1E (R171) -/
  | addI (x : Reg)
  /-- `LD F,Vx` Fx29 (R172) -/
  | ldF (x : Reg)
  /-- `LD B,Vx` Fx33 (R173) -/
  | ldB (x : Reg)
  /-- `LD [I],Vx` Fx55 (R174) -/
  | stRegs (x : Reg)
  /-- `LD Vx,[I]` Fx65 (R175) -/
  | ldRegs (x : Reg)
deriving DecidableEq, Repr

end Sys2Proof
end

