-- ==== Sys2Proof/WellFormed.lean ====
section
/-! DEFINITION. Which 16-bit words are instructions (spec 30_encoding.md R96, R98). An `Instr` is well formed by
construction: its operand types are the field widths of R91 (log 27). What can be ill formed is a WORD, and R98 lists
the unknown words exhaustively, class by class; each class is a check here. -/

namespace Sys2Proof

/-- The six rows of R98's table: why a word is unknown. -/
inductive UnknownClass where
  /-- `0nnn` with `nnn` not 0x0E0 and not 0x0EE -/
  | class0
  /-- `5xyN`, `N` from 1 to F -/
  | class5
  /-- `8xyN`, `N` in 8, 9, A, B, C, D, F -/
  | class8
  /-- `9xyN`, `N` from 1 to F -/
  | class9
  /-- `ExNN`, `NN` not 0x9E and not 0xA1 -/
  | classE
  /-- `FxNN`, `NN` not in 07, 0A, 15, 18, 1E, 29, 33, 55, 65 -/
  | classF
deriving DecidableEq, Repr

/-- R98: the class an unknown word falls in, `none` for the words that are instructions. Written on numbers, as the
rule is, and apart from the decoder. -/
def unknownClass (w : Word) : Option UnknownClass :=
  let op := w.toNat / 4096
  let nnn := w.toNat % 4096
  let nn := w.toNat % 256
  let n := w.toNat % 16
  if op = 0x0 ∧ nnn ≠ 0x0E0 ∧ nnn ≠ 0x0EE then some .class0
  else if op = 0x5 ∧ n ≠ 0 then some .class5
  else if op = 0x8 ∧ n ∈ [0x8, 0x9, 0xA, 0xB, 0xC, 0xD, 0xF] then some .class8
  else if op = 0x9 ∧ n ≠ 0 then some .class9
  else if op = 0xE ∧ nn ∉ [0x9E, 0xA1] then some .classE
  else if op = 0xF ∧ nn ∉ [0x07, 0x0A, 0x15, 0x18, 0x1E, 0x29, 0x33, 0x55, 0x65] then some .classF
  else none

/-- A word that is an instruction (R95, R98). -/
def wellFormedWord (w : Word) : Bool := (unknownClass w).isNone

/-- The 7680 words whose being unknown rests on the strict reading of R96 (92_eei_decisions.md D4):
`5xy1` to `5xyF` and `9xy1` to `9xyF` (log 3). -/
def restsOnStrictDecode (w : Word) : Bool :=
  unknownClass w = some .class5 || unknownClass w = some .class9

end Sys2Proof
end

