-- ==== Sys2Proof/Decode.lean ====
section
/-! DEFINITION. From bytes and words to instructions and back (spec 30_encoding.md R90 to R98; 20_memory.md R64, R67).
PRESUMED: the numeric opcodes and field positions are the spec's, which marks them as the family's published encoding
(unsafe, log 2). DESIGN CHOICE: strict decoding, R96 (unsafe, log 3). -/

namespace Sys2Proof

/-- R64, R67: the byte at the lower address is the high-order byte. -/
def wordOfBytes (hi lo : Byte) : Word := hi ++ lo

/-- The high-order byte of a word, stored at the lower address (R67). -/
def highByte (w : Word) : Byte := w.extractLsb' 8 8

/-- The low-order byte of a word, stored at the higher address (R67). -/
def lowByte (w : Word) : Byte := w.extractLsb' 0 8

/-- R91 `op` = `w[15:12]`. -/
def fieldOp (w : Word) : Nibble := w.extractLsb' 12 4

/-- R91 `x` = `w[11:8]`. -/
def fieldX (w : Word) : Reg := (w.extractLsb' 8 4).toFin

/-- R91 `y` = `w[7:4]`. -/
def fieldY (w : Word) : Reg := (w.extractLsb' 4 4).toFin

/-- R91 `n` = `w[3:0]`. -/
def fieldN (w : Word) : Fin 16 := (w.extractLsb' 0 4).toFin

/-- R91 `nn` = `w[7:0]`. -/
def fieldNN (w : Word) : Byte := w.extractLsb' 0 8

/-- R91 `nnn` = `w[11:0]`. -/
def fieldNNN (w : Word) : Addr := w.extractLsb' 0 12

/-- What a word is: an instruction of R95's table, or UNKNOWN(w) (R97). -/
inductive Decoded where
  | instr (i : Instr)
  | unknown (w : Word)
deriving DecidableEq, Repr

/-- Format Z, class 0 (R92, R95): only `00E0` and `00EE`. -/
def decodeClass0 (w : Word) : Option Instr :=
  match (fieldNNN w).toNat with
  | 0x0E0 => some .cls
  | 0x0EE => some .ret
  | _ => none

/-- Format XY, class 5 (R92, R95, R96). -/
def decodeClass5 (w : Word) : Option Instr :=
  match (fieldN w).val with
  | 0x0 => some (.seReg (fieldX w) (fieldY w))
  | _ => none

/-- Format XY, class 8 (R92, R95). -/
def decodeClass8 (w : Word) : Option Instr :=
  match (fieldN w).val with
  | 0x0 => some (.ldReg (fieldX w) (fieldY w))
  | 0x1 => some (.orReg (fieldX w) (fieldY w))
  | 0x2 => some (.andReg (fieldX w) (fieldY w))
  | 0x3 => some (.xorReg (fieldX w) (fieldY w))
  | 0x4 => some (.addReg (fieldX w) (fieldY w))
  | 0x5 => some (.sub (fieldX w) (fieldY w))
  | 0x6 => some (.shr (fieldX w) (fieldY w))
  | 0x7 => some (.subn (fieldX w) (fieldY w))
  | 0xE => some (.shl (fieldX w) (fieldY w))
  | _ => none

/-- Format XY, class 9 (R92, R95, R96). -/
def decodeClass9 (w : Word) : Option Instr :=
  match (fieldN w).val with
  | 0x0 => some (.sneReg (fieldX w) (fieldY w))
  | _ => none

/-- Format XF, class E (R92, R95). -/
def decodeClassE (w : Word) : Option Instr :=
  match (fieldNN w).toNat with
  | 0x9E => some (.skp (fieldX w))
  | 0xA1 => some (.sknp (fieldX w))
  | _ => none

/-- Format XF, class F (R92, R95). -/
def decodeClassF (w : Word) : Option Instr :=
  match (fieldNN w).toNat with
  | 0x07 => some (.ldVxDt (fieldX w))
  | 0x0A => some (.ldVxK (fieldX w))
  | 0x15 => some (.ldDtVx (fieldX w))
  | 0x18 => some (.ldStVx (fieldX w))
  | 0x1E => some (.addI (fieldX w))
  | 0x29 => some (.ldF (fieldX w))
  | 0x33 => some (.ldB (fieldX w))
  | 0x55 => some (.stRegs (fieldX w))
  | 0x65 => some (.ldRegs (fieldX w))
  | _ => none

/-- The instruction a word is, class by class ("extract the opcode class from the top 4 bits", R91, R95). -/
def decodeInstr (w : Word) : Option Instr :=
  match (fieldOp w).toNat with
  | 0x0 => decodeClass0 w
  | 0x1 => some (.jp (fieldNNN w))
  | 0x2 => some (.call (fieldNNN w))
  | 0x3 => some (.seImm (fieldX w) (fieldNN w))
  | 0x4 => some (.sneImm (fieldX w) (fieldNN w))
  | 0x5 => decodeClass5 w
  | 0x6 => some (.ldImm (fieldX w) (fieldNN w))
  | 0x7 => some (.addImm (fieldX w) (fieldNN w))
  | 0x8 => decodeClass8 w
  | 0x9 => decodeClass9 w
  | 0xA => some (.ldI (fieldNNN w))
  | 0xB => some (.jpV0 (fieldNNN w))
  | 0xC => some (.rnd (fieldX w) (fieldNN w))
  | 0xD => some (.drw (fieldX w) (fieldY w) (fieldN w))
  | 0xE => decodeClassE w
  | 0xF => decodeClassF w
  | _ => none

/-- R94, R95, R97: decode is total; a word that matches no row is UNKNOWN(w). -/
def decodeWord (w : Word) : Decoded :=
  match decodeInstr w with
  | some i => .instr i
  | none => .unknown w

/-- Why a sequence of bytes is no instruction. -/
inductive DecodeError where
  /-- fewer than the two bytes every instruction has (R90) -/
  | truncated
  /-- R97: the first two bytes are a word that matches no row -/
  | unknownOpcode (w : Word)
deriving DecidableEq, Repr

/-- The instruction at the head of a sequence of bytes and the bytes after it (R90: two bytes, high byte first). -/
def decodeBytes (bytes : List Byte) : Except DecodeError (Instr × List Byte) :=
  match bytes with
  | hi :: lo :: rest =>
    match decodeWord (wordOfBytes hi lo) with
    | .instr i => .ok (i, rest)
    | .unknown w => .error (.unknownOpcode w)
  | _ => .error .truncated

/-- The row's word for an instruction whose bits are `w` (bit 0 the least significant bit of the one 16-bit word), the
bits from `nbits` up being 0. -/
def tableWord (nbits w : Nat) : Word := BitVec.ofNat 16 (w % 2 ^ nbits)

/-- The instruction the decoder reads from a word of the opcode table, laid out high byte first (R90, R95). -/
def decodeTableWord (nbits w : Nat) : Option Instr :=
  match decodeBytes [highByte (tableWord nbits w), lowByte (tableWord nbits w)] with
  | .ok (i, _) => some i
  | .error _ => none

/-! The encoder (R92, R95), and R95's table as the spec prints it. -/

/-- Format Z (R92). -/
def formatZ (nnn : Addr) : Word := (0x0 : Nibble) ++ nnn

/-- Format A (R92). -/
def formatA (op : Nibble) (nnn : Addr) : Word := op ++ nnn

/-- Format XI (R92). -/
def formatXI (op : Nibble) (x : Reg) (nn : Byte) : Word := op ++ (BitVec.ofFin x : Nibble) ++ nn

/-- Formats XY and XYN (R92): two registers, then a function digit or a row count. -/
def formatXYN (op : Nibble) (x y : Reg) (n : Nibble) : Word :=
  op ++ (BitVec.ofFin x : Nibble) ++ (BitVec.ofFin y : Nibble) ++ n

/-- Format XF (R92): a register, then an 8-bit function. -/
def formatXF (op : Nibble) (x : Reg) (function : Byte) : Word := op ++ (BitVec.ofFin x : Nibble) ++ function

/-- R95: the word of an instruction. -/
def encode (i : Instr) : Word :=
  match i with
  | .cls => formatZ 0x0E0
  | .ret => formatZ 0x0EE
  | .jp nnn => formatA 0x1 nnn
  | .call nnn => formatA 0x2 nnn
  | .seImm x nn => formatXI 0x3 x nn
  | .sneImm x nn => formatXI 0x4 x nn
  | .seReg x y => formatXYN 0x5 x y 0x0
  | .ldImm x nn => formatXI 0x6 x nn
  | .addImm x nn => formatXI 0x7 x nn
  | .ldReg x y => formatXYN 0x8 x y 0x0
  | .orReg x y => formatXYN 0x8 x y 0x1
  | .andReg x y => formatXYN 0x8 x y 0x2
  | .xorReg x y => formatXYN 0x8 x y 0x3
  | .addReg x y => formatXYN 0x8 x y 0x4
  | .sub x y => formatXYN 0x8 x y 0x5
  | .shr x y => formatXYN 0x8 x y 0x6
  | .subn x y => formatXYN 0x8 x y 0x7
  | .shl x y => formatXYN 0x8 x y 0xE
  | .sneReg x y => formatXYN 0x9 x y 0x0
  | .ldI nnn => formatA 0xA nnn
  | .jpV0 nnn => formatA 0xB nnn
  | .rnd x nn => formatXI 0xC x nn
  | .drw x y n => formatXYN 0xD x y (BitVec.ofFin n)
  | .skp x => formatXF 0xE x 0x9E
  | .sknp x => formatXF 0xE x 0xA1
  | .ldVxDt x => formatXF 0xF x 0x07
  | .ldVxK x => formatXF 0xF x 0x0A
  | .ldDtVx x => formatXF 0xF x 0x15
  | .ldStVx x => formatXF 0xF x 0x18
  | .addI x => formatXF 0xF x 0x1E
  | .ldF x => formatXF 0xF x 0x29
  | .ldB x => formatXF 0xF x 0x33
  | .stRegs x => formatXF 0xF x 0x55
  | .ldRegs x => formatXF 0xF x 0x65

/-- The two bytes of an instruction in memory order (R67, R90). -/
def encodeBytes (i : Instr) : List Byte := [highByte (encode i), lowByte (encode i)]

/-- One row of R95's table: selected when `w & mask = pattern`, and the instruction it then is. -/
structure OpcodeRow where
  pattern : Word
  mask : Word
  build : Word → Instr

/-- R95 "The row is selected when `w & mask = match`". -/
def OpcodeRow.selects (r : OpcodeRow) (w : Word) : Bool := w &&& r.mask = r.pattern

/-- R95's table, rows `00E0` to `7xnn`. -/
def opcodeMapLow : List OpcodeRow :=
  [⟨0x00E0, 0xFFFF, fun _ => .cls⟩,
   ⟨0x00EE, 0xFFFF, fun _ => .ret⟩,
   ⟨0x1000, 0xF000, fun w => .jp (fieldNNN w)⟩,
   ⟨0x2000, 0xF000, fun w => .call (fieldNNN w)⟩,
   ⟨0x3000, 0xF000, fun w => .seImm (fieldX w) (fieldNN w)⟩,
   ⟨0x4000, 0xF000, fun w => .sneImm (fieldX w) (fieldNN w)⟩,
   ⟨0x5000, 0xF00F, fun w => .seReg (fieldX w) (fieldY w)⟩,
   ⟨0x6000, 0xF000, fun w => .ldImm (fieldX w) (fieldNN w)⟩,
   ⟨0x7000, 0xF000, fun w => .addImm (fieldX w) (fieldNN w)⟩]

/-- R95's table, rows `8xy0` to `9xy0`. -/
def opcodeMapMid : List OpcodeRow :=
  [⟨0x8000, 0xF00F, fun w => .ldReg (fieldX w) (fieldY w)⟩,
   ⟨0x8001, 0xF00F, fun w => .orReg (fieldX w) (fieldY w)⟩,
   ⟨0x8002, 0xF00F, fun w => .andReg (fieldX w) (fieldY w)⟩,
   ⟨0x8003, 0xF00F, fun w => .xorReg (fieldX w) (fieldY w)⟩,
   ⟨0x8004, 0xF00F, fun w => .addReg (fieldX w) (fieldY w)⟩,
   ⟨0x8005, 0xF00F, fun w => .sub (fieldX w) (fieldY w)⟩,
   ⟨0x8006, 0xF00F, fun w => .shr (fieldX w) (fieldY w)⟩,
   ⟨0x8007, 0xF00F, fun w => .subn (fieldX w) (fieldY w)⟩,
   ⟨0x800E, 0xF00F, fun w => .shl (fieldX w) (fieldY w)⟩,
   ⟨0x9000, 0xF00F, fun w => .sneReg (fieldX w) (fieldY w)⟩]

/-- R95's table, rows `Annn` to `Fx65`. -/
def opcodeMapHigh : List OpcodeRow :=
  [⟨0xA000, 0xF000, fun w => .ldI (fieldNNN w)⟩,
   ⟨0xB000, 0xF000, fun w => .jpV0 (fieldNNN w)⟩,
   ⟨0xC000, 0xF000, fun w => .rnd (fieldX w) (fieldNN w)⟩,
   ⟨0xD000, 0xF000, fun w => .drw (fieldX w) (fieldY w) (fieldN w)⟩,
   ⟨0xE09E, 0xF0FF, fun w => .skp (fieldX w)⟩,
   ⟨0xE0A1, 0xF0FF, fun w => .sknp (fieldX w)⟩,
   ⟨0xF007, 0xF0FF, fun w => .ldVxDt (fieldX w)⟩,
   ⟨0xF00A, 0xF0FF, fun w => .ldVxK (fieldX w)⟩,
   ⟨0xF015, 0xF0FF, fun w => .ldDtVx (fieldX w)⟩,
   ⟨0xF018, 0xF0FF, fun w => .ldStVx (fieldX w)⟩,
   ⟨0xF01E, 0xF0FF, fun w => .addI (fieldX w)⟩,
   ⟨0xF029, 0xF0FF, fun w => .ldF (fieldX w)⟩,
   ⟨0xF033, 0xF0FF, fun w => .ldB (fieldX w)⟩,
   ⟨0xF055, 0xF0FF, fun w => .stRegs (fieldX w)⟩,
   ⟨0xF065, 0xF0FF, fun w => .ldRegs (fieldX w)⟩]

/-- R95's table, in its order. -/
def opcodeMap : List OpcodeRow := opcodeMapLow ++ opcodeMapMid ++ opcodeMapHigh

end Sys2Proof
end

