-- ==== Sys2Proof/Machine/State.lean ====
section
/-! DEFINITION. The machine's state (spec 10_state.md R20), the reasons a step can stop, and the state after reset
(R34). -/

namespace Sys2Proof.Machine

/-- R30: why the machine is halted. -/
inductive Cause where
  /-- not halted -/
  | none
  /-- R201: the fetch at `pc` was refused because `pc + 1 >= 4096` -/
  | fetchFault (pc : Word)
  /-- R202: the first data address of 4096 or more that the instruction used -/
  | dataAddressFault (a : Word)
deriving DecidableEq, Repr

/-- R218: the diagnostic output of a step. -/
inductive Diag where
  | none
  /-- R203 -/
  | unknownOpcode (w : Word)
  /-- R204 -/
  | emptyStackReturn
deriving DecidableEq, Repr

/-- Why a step ends with the model itself stopped. A fatal fault of the spec (R201, R202) is none of these: it is a
next state with `halt` latched (log 6). -/
inductive Fault where
  /-- Raised by `CALL` where `Config.hw.stackDepth` is a number and the stack already holds that many entries
  (92_eei_decisions.md D15: "a finite build must fault on the push that would exceed it"). This hardware's depth is
  unbounded, so no step of it raises this. Safe. -/
  | stackOverflow
deriving DecidableEq, Repr

/-- Why the model gives no transition. -/
inductive Refusal where
  /-- Raised by an arm of `exec` whose instruction has no meaning yet; no arm does. Safe. -/
  | notModelled (mnemonic : String)
  /-- Raised by the host event `load` where `start + len(bytes) > 4096` (20_memory.md R69, D22); no instruction raises
  it. Safe. -/
  | loadPastEnd
deriving DecidableEq, Repr

/-- R20: the whole state, then three fields of the model's own. -/
@[ext]
structure State where
  /-- `V[0..15]` (R21) -/
  v : Vector Byte 16
  /-- `I` (R23) -/
  i : Word
  /-- `PC` (R25) -/
  pc : Word
  /-- `STK`: return addresses, the last element is the top (R24, R7) -/
  stk : List Word
  /-- `FB[r][c]`: 32 rows of 64 cells (R27) -/
  fb : Vector (Vector Bool 64) 32
  /-- `K[k]` (R28) -/
  k : Vector Bool 16
  /-- `DT` (R29) -/
  dt : Byte
  /-- `ST` (R29) -/
  st : Byte
  /-- `HALT` (R30) -/
  halt : Bool
  /-- `CAUSE` (R30) -/
  cause : Cause
  /-- `Mem` (R60): the bytes that differ from the reset contents, addresses strictly rising (log 12) -/
  mem : List Host.Cell
  /-- The model's own: the `continue` output of the last step (R35, R94), an output latch (log 7) -/
  continues : Bool
  /-- The model's own: the `diag` output of the last step (R218), an output latch (log 7) -/
  diag : Diag
  /-- The model's own: how many free values have been drawn (log 8) -/
  free : Nat
deriving DecidableEq, Repr

/-- R34: every field right after `reset`. DESIGN CHOICE: the values of the three fields of the model's own (log 7,
log 8); the register values are the spec's decisions D6, D7 (log 11). -/
def State.reset : State where
  v := Vector.replicate 16 0
  i := 0
  pc := BitVec.ofNat 16 Config.hw.progBase
  stk := []
  fb := Vector.replicate 32 (Vector.replicate 64 false)
  k := Vector.replicate 16 false
  dt := 0
  st := 0
  halt := false
  cause := .none
  mem := []
  continues := true
  diag := .none
  free := 0

/-- The outcome of a meaning. -/
abbrev Result := Host.Outcome State Fault Refusal

end Sys2Proof.Machine
end

