-- ==== Sys2Proof/Machine/Ops.lean ====
section
/-! DEFINITION. The named operations over registers, stack, memory and faults (spec 00_scope.md R7; 20_memory.md R60
to R76; 60_exceptions.md R200 to R218). -/

namespace Sys2Proof.Machine

/-! Registers: one accessor and one update each. -/

/-- R7 `V[r]`. -/
def State.getV (s : State) (r : Reg) : Byte := s.v[r]

/-- R7 `V[r] <- b`. -/
def State.setV (s : State) (r : Reg) (b : Byte) : State := { s with v := s.v.set r b }

/-- R7 `I <- w`. -/
def State.setI (s : State) (w : Word) : State := { s with i := w }

/-- R7 `PC <- w`. -/
def State.setPc (s : State) (w : Word) : State := { s with pc := w }

def State.setStk (s : State) (l : List Word) : State := { s with stk := l }

def State.setFb (s : State) (fb : Vector (Vector Bool 64) 32) : State := { s with fb := fb }

/-- R7 `DT <- b`. -/
def State.setDt (s : State) (b : Byte) : State := { s with dt := b }

/-- R7 `ST <- b`. -/
def State.setSt (s : State) (b : Byte) : State := { s with st := b }

def State.setMem (s : State) (m : List Host.Cell) : State := { s with mem := m }

/-- R7 `diag(d)`. -/
def State.setDiag (s : State) (d : Diag) : State := { s with diag := d }

/-- A level the host sets between steps: `K[k] <- b` (R212). -/
def State.setK (s : State) (k : Key) (b : Bool) : State := { s with k := s.k.set k b }

/-- `n` free values have been drawn (log 8). -/
def State.drew (s : State) (n : Nat) : State := { s with free := s.free + n }

/-- The flag register VF is general register 15 (R22). -/
def vf : Reg := 15

/-- R7 `next`: `PC <- (PC + 2) mod 65536` (D16, log 16). -/
def State.next (s : State) : State := s.setPc (s.pc + 2)

/-- R7 `skip`: `PC <- (PC + 4) mod 65536` (D16, log 16). -/
def State.skip (s : State) : State := s.setPc (s.pc + 4)

/-- `if c then skip else next` (R124 to R127, R190, R191). -/
def State.skipIf (s : State) (c : Bool) : State := if c then s.skip else s.next

/-- Display cell `FB[r][c]` (R27). -/
def State.cell (s : State) (r : Fin 32) (c : Fin 64) : Bool := s.fb[r][c]

/-! The call stack (R24). -/

/-- Whether one more entry fits `STACK_DEPTH` (R5, D15, log 15). -/
def stackHasRoom (s : State) : Bool :=
  match Config.hw.stackDepth with
  | none => true
  | some d => s.stk.length < d

/-- R7 `push(w)`. -/
def push (w : Word) (s : State) : State := s.setStk (s.stk ++ [w])

/-- R7 `pop()`: the top and the state without it; `none` on the empty stack. -/
def pop (s : State) : Option (Word × State) :=
  match s.stk.getLast? with
  | some w => some (w, s.setStk s.stk.dropLast)
  | none => none

/-! Memory as a list of cells in one canonical form. -/

/-- What an unlisted address reads as: the reset contents, the font at `FONT_BASE` and zero everywhere else
(R34, R70; log 12). -/
def initialByte (a : Nat) : Byte :=
  if Config.hw.fontBase ≤ a ∧ a < Config.hw.fontBase + Config.hw.font.length then
    Config.hw.font.getD (a - Config.hw.fontBase) 0
  else 0

/-- The byte at an address of a memory. -/
def memGet (m : List Host.Cell) (a : Nat) : Byte :=
  match m with
  | [] => initialByte a
  | (a', b) :: rest => if a' = a then b else memGet rest a

/-- Put a byte in front of cells whose addresses are all higher, unless it is what the address reads as unlisted. -/
def memCons (a : Nat) (b : Byte) (rest : List Host.Cell) : List Host.Cell :=
  if b = initialByte a then rest else (a, b) :: rest

/-- A memory with one byte replaced; keeps the canonical form. -/
def memPut (m : List Host.Cell) (a : Nat) (b : Byte) : List Host.Cell :=
  match m with
  | [] => memCons a b []
  | (a', b') :: rest =>
    if a < a' then memCons a b ((a', b') :: rest)
    else if a = a' then memCons a b rest
    else (a', b') :: memPut rest a b

/-- The cells are in canonical form from address `lo` up: addresses strictly rising, each below `MEM_SIZE`, no entry
equal to what an unlisted address reads as. -/
def memWfFrom (lo : Nat) (m : List Host.Cell) : Bool :=
  match m with
  | [] => true
  | (a, b) :: rest => lo ≤ a && a < Config.hw.memSize && b ≠ initialByte a && memWfFrom (a + 1) rest

/-- The canonical form of a memory. -/
def Memory.wf (m : List Host.Cell) : Bool := memWfFrom 0 m

/-- `Mem[a]`: the byte at an address, as the state holds it (R7, R60). -/
def State.byteAt (s : State) (a : Nat) : Byte := memGet s.mem a

/-- `Mem[a] <- b` with no check; the accesses below make it. -/
def State.setByte (s : State) (a : Nat) (b : Byte) : State := s.setMem (memPut s.mem a b)

/-- R63 `MemRead(a, 1)`: the byte, or the address that raises DataAddressFault. -/
def memRead (a : Nat) (s : State) : Except Nat Byte :=
  if a < Config.hw.memSize then .ok (s.byteAt a) else .error a

/-- R63 `MemWrite(a, 1, b)`: the state after it, or the address that raises DataAddressFault. -/
def memWrite (a : Nat) (b : Byte) (s : State) : Except Nat State :=
  if a < Config.hw.memSize then .ok (s.setByte a b) else .error a

/-- R66: `n` bytes read one by one at ascending addresses from `a`; the first address out of range ends it. -/
def readBytes (a : Nat) (n : Nat) (s : State) : Except Nat (List Byte) :=
  match n with
  | 0 => .ok []
  | n + 1 =>
    match memRead a s with
    | .error e => .error e
    | .ok b =>
      match readBytes (a + 1) n s with
      | .error e => .error e
      | .ok bs => .ok (b :: bs)

/-- R66: bytes written one by one at ascending addresses from `a`; the first address out of range ends it. -/
def writeBytes (a : Nat) (bytes : List Byte) (s : State) : Except Nat State :=
  match bytes with
  | [] => .ok s
  | b :: bs =>
    match memWrite a b s with
    | .error e => .error e
    | .ok s' => writeBytes (a + 1) bs s'

/-- R64 `FetchWord(a)`: big-endian, never faults (the step checks the address first). -/
def fetchWord (s : State) (a : Nat) : Word := wordOfBytes (s.byteAt a) (s.byteAt (a + 1))

/-- R201: the fetch is legal exactly when `PC + 1 < 4096`, on naturals. -/
def fetchLegal (s : State) : Bool := s.pc.toNat + 1 < Config.hw.memSize

/-! Groups of registers (R174, R175: `V0` to `Vx`, ascending). -/

/-- `V[0]` to `V[x]`, inclusive. -/
def regsUpTo (x : Reg) (s : State) : List Byte := s.v.toList.take (x.val + 1)

/-- Bytes written to the registers from number `k` up. -/
def setRegsFrom (k : Nat) (bytes : List Byte) (s : State) : State :=
  match bytes with
  | [] => s
  | b :: bs => if h : k < 16 then setRegsFrom (k + 1) bs (s.setV ⟨k, h⟩ b) else s

/-! The step's own outputs (R94). -/

/-- R94: a step starts with `diag <- None` and answers `continue` unless it stops. -/
def State.beginStep (s : State) : State := { s with continues := true, diag := .none }

/-- R94, D14: what a step does while the machine is halted: it answers `(0, None)` and changes no state. -/
def State.stayHalted (s : State) : State := { s with continues := false, diag := .none }

/-! Taking a fatal fault (R200, R207): HALT and CAUSE are set, `stop` is answered, PC stays. -/

/-- R7 `raise`: the one operation that latches a fatal fault. -/
def raiseFatal (c : Cause) (s : State) : State := { s with halt := true, cause := c, continues := false }

/-- R201: the fetch fault; `diag` is None (R94). -/
def raiseFetch (s : State) : State := raiseFatal (.fetchFault s.pc) (s.setDiag .none)

/-- R202: the data address fault at `a`. The address recorded fits 16 bits (R202; DEDUCED, log 21). -/
def raiseDataAddress (a : Nat) (s : State) : State := raiseFatal (.dataAddressFault (BitVec.ofNat 16 a)) s

/-! What R202 and D13 leave unspecified after a data address fault holds free values (log 5). -/

/-- The next `n` free bytes. -/
def freeBytes (n : Nat) (s : State) : List Byte := (List.range n).map fun j => Config.freeByte (s.free + j)

/-- Bytes written at ascending addresses, the ones out of range left out. -/
def writeInRange (a : Nat) (bytes : List Byte) (s : State) : State :=
  match bytes with
  | [] => s
  | b :: bs => writeInRange (a + 1) bs (if a < Config.hw.memSize then s.setByte a b else s)

/-- A word stored high byte first at an address (R67), as the host's `load` stores it. -/
def placeWord (a : Nat) (w : Word) (s : State) : State := writeInRange a [highByte w, lowByte w] s

/-- The `n` bytes of memory from `a` that are in range hold free values. -/
def scrambleBytes (a n : Nat) (s : State) : State := (writeInRange a (freeBytes n s) s).drew n

/-- The registers `V[0]` to `V[x]` hold free values. -/
def scrambleRegs (x : Reg) (s : State) : State := (setRegsFrom 0 (freeBytes (x.val + 1) s) s).drew (x.val + 1)

/-- A display of free cells. -/
def freeDisplay (n : Nat) : Vector (Vector Bool 64) 32 := Vector.ofFn fun r => Vector.ofFn fun c => Config.freeCell n r c

/-- The display and VF hold free values. -/
def scrambleDisplay (s : State) : State :=
  ((s.setFb (freeDisplay s.free)).setV vf (Config.freeByte s.free)).drew 1

/-! The instruction whose execution draws R142's random byte. -/

/-- R7 `draw8()`: the byte `rnd` of this execution, a free value, and the state that has drawn it (log 4). -/
def draw8 (s : State) : Byte × State := (Config.freeByte s.free, s.drew 1)

end Sys2Proof.Machine
end

