-- ==== Sys2Proof/Machine/Flags.lean ====
section
/-! DEFINITION. The values VF receives (spec 10_state.md R22; 42_alu.md R155 to R160; 44_display.md R181): always
exactly 0 or 1. -/

namespace Sys2Proof.Machine

/-- A flag as the byte VF holds: 1 or 0 (R22). -/
def flagByte (c : Bool) : Byte := if c then 1 else 0

/-- R155: the carry out, 1 when the sum exceeds 255. -/
def carryFlag (a b : Byte) : Byte := flagByte (a.toNat + b.toNat > 255)

/-- R156, R158, R160: the inverse of the borrow of `a - b`, 1 when `a >= b`. -/
def notBorrowFlag (a b : Byte) : Byte := flagByte (a.toNat ≥ b.toNat)

/-- R157: the bit a right shift discards, bit 0 (G5, log 23). -/
def shiftRightFlag (a : Byte) : Byte := flagByte (a.getLsbD 0)

/-- R159: the bit a left shift discards, bit 7 (G5, log 23). -/
def shiftLeftFlag (a : Byte) : Byte := flagByte (a.getLsbD 7)

/-- R150: the result goes to `V[x]`, then the flag to VF, last, then `next` (D9, log 18). -/
def finishWithFlag (x : Reg) (result flag : Byte) (s : State) : State := ((s.setV x result).setV vf flag).next

end Sys2Proof.Machine
end

