-- ==== Sys2Proof/Machine/Operands.lean ====
section
/-! DEFINITION. The operand forms (spec 30_encoding.md R93; 43_index_memory.md R176): registers by number, unsigned
immediates, zero-extended addresses, and the one data address `I + k`. -/

namespace Sys2Proof.Machine

/-- R93: `nnn` zero-extended to the 16 bits of PC or I. -/
def zextAddr (nnn : Addr) : Word := nnn.zeroExtend 16

/-- A register's byte zero-extended to 16 bits (R6: every widening is a zero extension). -/
def zextByte (b : Byte) : Word := b.zeroExtend 16

/-- R74, R176: the effective address `I + k` on naturals, no wrap and no mask (D12, log 17). -/
def dataAddress (s : State) (k : Nat) : Nat := s.i.toNat + k

/-- R157, R159: the register a shift reads, by the parameter `SHIFT_SRC` (D8, log 13). -/
def shiftOperand (x y : Reg) (s : State) : Byte :=
  match Config.hw.shiftSrc with
  | .x => s.getV x
  | .y => s.getV y

/-- The low 4 bits of a byte (R172 "& 0x0F"; R190 "mod 16"). -/
def lowDigit (b : Byte) : Fin 16 := ⟨b.toNat % 16, Nat.mod_lt _ (by decide)⟩

/-- R190: the key number `V[x] mod 16`, and whether that key is pressed. -/
def keyPressed (x : Reg) (s : State) : Bool := s.k[lowDigit (s.getV x)]

/-- The key numbers in ascending order (R192: "by scan order"). -/
def allKeys : List Key := [0, 1, 2, 3, 4, 5, 6, 7, 8, 9, 10, 11, 12, 13, 14, 15]

/-- R192: the least pressed key. -/
def lowestPressed (s : State) : Option Key := allKeys.find? fun k => s.k[k]

/-- A register or key number as the byte a register holds. -/
def byteOfDigit (d : Fin 16) : Byte := BitVec.ofNat 8 d.val

/-- R174, R175: `I` after a register transfer up to `Vx`: unchanged, unless `MEMOP_INCREMENTS_I` (D10, log 14). -/
def indexAfterTransfer (x : Reg) (s : State) : Word :=
  if Config.hw.memopIncrementsI then s.i + BitVec.ofNat 16 (x.val + 1) else s.i

end Sys2Proof.Machine
end

