-- ==== Sys2Proof/Machine/Alu.lean ====
section
/-! DEFINITION. Register-to-register operations (spec 42_alu.md R150 to R161). Operands are read before anything is
written; copy, OR, AND, XOR write no flag (C2, log 22); the other five write VF last (R150, log 18). -/

namespace Sys2Proof.Machine

/-- R151 `LD Vx,Vy`. -/
def execLdReg (x y : Reg) (s : State) : Result := .next (s.setV x (s.getV y)).next

/-- R152 `OR Vx,Vy`. -/
def execOrReg (x y : Reg) (s : State) : Result := .next (s.setV x (s.getV x ||| s.getV y)).next

/-- R153 `AND Vx,Vy`. -/
def execAndReg (x y : Reg) (s : State) : Result := .next (s.setV x (s.getV x &&& s.getV y)).next

/-- R154 `XOR Vx,Vy`. -/
def execXorReg (x y : Reg) (s : State) : Result := .next (s.setV x (s.getV x ^^^ s.getV y)).next

/-- R155 `ADD Vx,Vy`. -/
def execAddReg (x y : Reg) (s : State) : Result :=
  .next (finishWithFlag x (s.getV x + s.getV y) (carryFlag (s.getV x) (s.getV y)) s)

/-- R156 `SUB Vx,Vy`. -/
def execSub (x y : Reg) (s : State) : Result :=
  .next (finishWithFlag x (s.getV x - s.getV y) (notBorrowFlag (s.getV x) (s.getV y)) s)

/-- R157 `SHR Vx`. -/
def execShr (x y : Reg) (s : State) : Result :=
  .next (finishWithFlag x (shiftOperand x y s >>> 1) (shiftRightFlag (shiftOperand x y s)) s)

/-- R158 `SUBN Vx,Vy` (G6, log 23). -/
def execSubn (x y : Reg) (s : State) : Result :=
  .next (finishWithFlag x (s.getV y - s.getV x) (notBorrowFlag (s.getV y) (s.getV x)) s)

/-- R159 `SHL Vx`. -/
def execShl (x y : Reg) (s : State) : Result :=
  .next (finishWithFlag x (shiftOperand x y s <<< 1) (shiftLeftFlag (shiftOperand x y s)) s)

end Sys2Proof.Machine
end

