-- ==== Sys2Proof/Machine/Control.lean ====
section
/-! DEFINITION. Control transfer (spec 40_control_transfer.md R120 to R129). No target is checked when the transfer
executes (R120). -/

namespace Sys2Proof.Machine

/-- R121 `RET`: pop into PC; on the empty stack a no-op with a diagnostic (C4). -/
def execRet (s : State) : Result :=
  match pop s with
  | some (w, s') => .next (s'.setPc w)
  | none => .next (s.setDiag .emptyStackReturn).next

/-- R122 `JP nnn`. -/
def execJp (nnn : Addr) (s : State) : Result := .next (s.setPc (zextAddr nnn))

/-- R123 `CALL nnn`: push `PC + 2`, then jump. The stack has no limit (D15, log 15). -/
def execCall (nnn : Addr) (s : State) : Result :=
  if stackHasRoom s then .next ((push (s.pc + 2) s).setPc (zextAddr nnn)) else .fault .stackOverflow

/-- R124 `SE Vx,nn`. -/
def execSeImm (x : Reg) (nn : Byte) (s : State) : Result := .next (s.skipIf (s.getV x = nn))

/-- R125 `SNE Vx,nn`. -/
def execSneImm (x : Reg) (nn : Byte) (s : State) : Result := .next (s.skipIf (s.getV x ≠ nn))

/-- R126 `SE Vx,Vy`. -/
def execSeReg (x y : Reg) (s : State) : Result := .next (s.skipIf (s.getV x = s.getV y))

/-- R127 `SNE Vx,Vy`. -/
def execSneReg (x y : Reg) (s : State) : Result := .next (s.skipIf (s.getV x ≠ s.getV y))

/-- R128 `JP V0,nnn`: the sum is not reduced modulo 4096. -/
def execJpV0 (nnn : Addr) (s : State) : Result := .next (s.setPc (zextAddr nnn + zextByte (s.getV 0)))

end Sys2Proof.Machine
end

