-- ==== Sys2Proof/Machine/Display.lean ====
section
/-! DEFINITION. The display instructions and the sprite-blit engine (spec 44_display.md R180 to R185). -/

namespace Sys2Proof.Machine

/-- R180 `CLS`: every cell unlit; VF is not written. -/
def execCls (s : State) : Result :=
  .next (s.setFb (Vector.replicate 32 (Vector.replicate 64 false))).next

/-- What the blit loop carries: the display so far and the collision so far (R181). -/
structure Blit where
  fb : Vector (Vector Bool 64) 32
  collision : Bool
deriving DecidableEq, Repr

/-- R181, R182: the column `(vx + bit) mod 64`. -/
def blitColumn (vx : Byte) (bit : Nat) : Fin 64 := ⟨(vx.toNat + bit) % 64, Nat.mod_lt _ (by decide)⟩

/-- R181, R182: the row `(vy + row) mod 32`. -/
def blitRow (vy : Byte) (row : Nat) : Fin 32 := ⟨(vy.toNat + row) % 32, Nat.mod_lt _ (by decide)⟩

/-- R181: record a collision if the cell is lit, then flip it. -/
def flipCell (r : Fin 32) (c : Fin 64) (d : Blit) : Blit :=
  { fb := d.fb.set r (d.fb[r].set c (!d.fb[r][c])), collision := d.collision || d.fb[r][c] }

/-- R181: one bit of a sprite byte, bit 0 the most significant; a 0 bit never affects the cell. -/
def blitBit (vx vy : Byte) (row : Nat) (b : Byte) (bit : Nat) (d : Blit) : Blit :=
  if b.getLsbD (7 - bit) then flipCell (blitRow vy row) (blitColumn vx bit) d else d

/-- R181: the 8 bits of a sprite byte, ascending. -/
def blitByte (vx vy : Byte) (row : Nat) (b : Byte) (d : Blit) : Blit :=
  [0, 1, 2, 3, 4, 5, 6, 7].foldl (fun d bit => blitBit vx vy row b bit d) d

/-- R181: the sprite rows from `row` up, ascending. -/
def blitRows (vx vy : Byte) (row : Nat) (sprite : List Byte) (d : Blit) : Blit :=
  match sprite with
  | [] => d
  | b :: bs => blitRows vx vy (row + 1) bs (blitByte vx vy row b d)

/-- R181 `DRW Vx,Vy,n`: the coordinates are read before anything is written; VF is written once, last (D24, log 18).
The sprite bytes are read first, in the same order; the blit changes no memory, so this is R181's loop (log 24). -/
def execDrw (x y : Reg) (n : Fin 16) (s : State) : Result :=
  match readBytes (dataAddress s 0) n.val s with
  | .ok sprite =>
    .next (((s.setFb (blitRows (s.getV x) (s.getV y) 0 sprite ⟨s.fb, false⟩).fb).setV vf
      (flagByte (blitRows (s.getV x) (s.getV y) 0 sprite ⟨s.fb, false⟩).collision)).next)
  | .error a => .next (raiseDataAddress a (scrambleDisplay s))

end Sys2Proof.Machine
end

