-- ==== Sys2Proof/Machine/Immediate.lean ====
section
/-! DEFINITION. Immediate and random operations (spec 41_immediate_random.md R140 to R143). -/

namespace Sys2Proof.Machine

/-- R140 `LD Vx,nn`. -/
def execLdImm (x : Reg) (nn : Byte) (s : State) : Result := .next (s.setV x nn).next

/-- R141 `ADD Vx,nn`: modulo 256, no flag. -/
def execAddImm (x : Reg) (nn : Byte) (s : State) : Result := .next (s.setV x (s.getV x + nn)).next

/-- R142 `RND Vx,nn` for one value `r` of the random byte. -/
def randomMasked (r : Byte) (x : Reg) (nn : Byte) (s : State) : State := (s.setV x (r &&& nn)).next

/-- R142 `RND Vx,nn`: the random byte is drawn afresh at every execution (free value, log 4). -/
def execRnd (x : Reg) (nn : Byte) (s : State) : Result :=
  .next (randomMasked (draw8 s).1 x nn (draw8 s).2)

end Sys2Proof.Machine
end

