-- ==== Sys2Proof/Machine/IndexMemory.lean ====
section
/-! DEFINITION. Index register and memory transfers (spec 43_index_memory.md R170 to R177). A data access out of range
latches the data address fault; what the instruction could have written then holds free values (R176, R202, log 5). -/

namespace Sys2Proof.Machine

/-- R170 `LD I,nnn`. -/
def execLdI (nnn : Addr) (s : State) : Result := .next (s.setI (zextAddr nnn)).next

/-- R171 `ADD I,Vx`: modulo 65536, no flag (D11, log 16). -/
def execAddI (x : Reg) (s : State) : Result := .next (s.setI (s.i + zextByte (s.getV x))).next

/-- R172: the address of the glyph of a digit, `FONT_BASE + GLYPH_BYTES * d`. -/
def glyphAddress (d : Fin 16) : Word := BitVec.ofNat 16 (Config.hw.fontBase + Config.hw.glyphBytes * d.val)

/-- R172 `LD F,Vx`: only the low 4 bits of the register count; no memory is touched. -/
def execLdF (x : Reg) (s : State) : Result := .next (s.setI (glyphAddress (lowDigit (s.getV x)))).next

/-- R173: the hundreds, tens and ones digits of a byte, in the order they are stored. -/
def bcdDigits (b : Byte) : List Byte :=
  [BitVec.ofNat 8 (b.toNat / 100), BitVec.ofNat 8 (b.toNat / 10 % 10), BitVec.ofNat 8 (b.toNat % 10)]

/-- R66, R202: store bytes at `I`, `I+1`, ...; what follows the last store, or the data address fault with every byte
the instruction could have written in range holding a free value. -/
def storeAtIndex (bytes : List Byte) (s : State) : Except State State :=
  match writeBytes (dataAddress s 0) bytes s with
  | .ok s' => .ok s'
  | .error a => .error (raiseDataAddress a (scrambleBytes (dataAddress s 0) bytes.length s))

/-- R173 `LD B,Vx`. -/
def execLdB (x : Reg) (s : State) : Result :=
  match storeAtIndex (bcdDigits (s.getV x)) s with
  | .ok s' => .next s'.next
  | .error s' => .next s'

/-- R174 `LD [I],Vx`: `V0` to `Vx`, inclusive, ascending. -/
def execStRegs (x : Reg) (s : State) : Result :=
  match storeAtIndex (regsUpTo x s) s with
  | .ok s' => .next (s'.setI (indexAfterTransfer x s)).next
  | .error s' => .next s'

/-- R175 `LD Vx,[I]`: `V0` to `Vx`, inclusive, ascending. -/
def execLdRegs (x : Reg) (s : State) : Result :=
  match readBytes (dataAddress s 0) (x.val + 1) s with
  | .ok bytes => .next ((setRegsFrom 0 bytes s).setI (indexAfterTransfer x s)).next
  | .error a => .next (raiseDataAddress a (scrambleRegs x s))

end Sys2Proof.Machine
end

