-- ==== Sys2Proof/Machine/KeysTimers.lean ====
section
/-! DEFINITION. Key and timer instructions (spec 45_keys_timers.md R190 to R196). -/

namespace Sys2Proof.Machine

/-- R190 `SKP Vx`. -/
def execSkp (x : Reg) (s : State) : Result := .next (s.skipIf (keyPressed x s))

/-- R191 `SKNP Vx`. -/
def execSknp (x : Reg) (s : State) : Result := .next (s.skipIf (!keyPressed x s))

/-- R192 `LD Vx,K`: the lowest pressed key, or nothing at all changes and the step still answers `continue`. -/
def execLdVxK (x : Reg) (s : State) : Result :=
  match lowestPressed s with
  | some k => .next (s.setV x (byteOfDigit k)).next
  | none => .next s

/-- R193 `LD Vx,DT`. -/
def execLdVxDt (x : Reg) (s : State) : Result := .next (s.setV x s.dt).next

/-- R194 `LD DT,Vx`. -/
def execLdDtVx (x : Reg) (s : State) : Result := .next (s.setDt (s.getV x)).next

/-- R195 `LD ST,Vx`. -/
def execLdStVx (x : Reg) (s : State) : Result := .next (s.setSt (s.getV x)).next

end Sys2Proof.Machine
end

