-- ==== Sys2Proof/Machine/Unknown.lean ====
section
/-! DEFINITION. UNKNOWN(w), every word that is no instruction (spec 30_encoding.md R97, R98; 60_exceptions.md
R203). -/

namespace Sys2Proof.Machine

/-- R97: the diagnostic, then `next`; nothing else changes. DESIGN CHOICE D4 for the words of R96 (unsafe, log 3). -/
def execUnknown (w : Word) (s : State) : Result := .next (s.setDiag (.unknownOpcode w)).next

end Sys2Proof.Machine
end

