-- ==== Sys2Proof/Machine/Step.lean ====
section
/-! DEFINITION. One step (spec 30_encoding.md R94), and the placing of a word where the next step fetches. -/

namespace Sys2Proof.Machine

/-- R94: already halted, nothing changes; the fetch check; then fetch, decode, and the instruction's own rule. -/
def step (s : State) : Host.Outcome State Fault Refusal :=
  if s.halt then .next s.stayHalted
  else if fetchLegal s then
    match decodeWord (fetchWord s s.pc.toNat) with
    | .instr i => exec i s.beginStep
    | .unknown w => execUnknown w s.beginStep
  else .next (raiseFetch s)

/-- `s` with one word of the opcode table stored high byte first at PC (log 10); from State.reset the very next step
fetches and runs it. -/
def State.withFetchWord (s : State) (nbits w : Nat) : State := placeWord s.pc.toNat (tableWord nbits w) s

end Sys2Proof.Machine
end

