-- ==== Sys2Proof/Machine/Events.lean ====
section
/-! DEFINITION. The host's five events and the outputs the host reads (spec 00_scope.md R8; 10_state.md R35;
20_memory.md R69, R70; 60_exceptions.md R210 to R212; 70_reset_and_hazards.md R230 to R233). Every event is atomic
with respect to a step (D18, log 9). -/

namespace Sys2Proof.Machine

/-- R210: a timer at 0 stays at 0 (D17, log 19). -/
def countDown (t : Byte) : Byte := if t.toNat > 0 then t - 1 else t

/-- R210 `tick`. -/
def tick (s : State) : State := (s.setDt (countDown s.dt)).setSt (countDown s.st)

/-- R212 `set_key(k, b)`. -/
def setKey (k : Key) (b : Bool) (s : State) : State := s.setK k b

/-- R69 `load(bytes, start)`: the bytes at ascending addresses; a load past the end is refused (D22, log 20). -/
def load (bytes : List Byte) (start : Nat) (s : State) : Result :=
  if start + bytes.length ≤ Config.hw.memSize then .next (writeInRange start bytes s) else .refused .loadPastEnd

/-- R230 `reset`, at any time: every piece of the spec's state at R34's value. The count of free values goes on, so
that a draw after it is fresh (log 8). -/
def resetEvent (s : State) : State := { State.reset with free := s.free }

/-- R8: the events. -/
inductive Event where
  | reset
  | load (bytes : List Byte) (start : Nat)
  | step
  | tick
  | setKey (k : Key) (b : Bool)
deriving DecidableEq, Repr

/-- R8: what one event does. -/
def applyEvent (e : Event) (s : State) : Result :=
  match e with
  | .reset => .next (resetEvent s)
  | .load bytes start => load bytes start s
  | .step => step s
  | .tick => .next (tick s)
  | .setKey k b => .next (setKey k b s)

/-- A schedule of events in order; it ends at the first that has no next state. -/
def runEvents (es : List Event) (s : State) : Result :=
  match es with
  | [] => .next s
  | e :: rest =>
    match applyEvent e s with
    | .next s' => runEvents rest s'
    | .fault f => .fault f
    | .refused r => .refused r

/-- R35: the outputs. -/
structure Outputs where
  continues : Bool
  diag : Diag
  halted : Bool
  cause : Cause
  fb : Vector (Vector Bool 64) 32
  dt : Byte
  st : Byte
  soundOn : Bool
deriving DecidableEq, Repr

/-- R211: `sound_on = (ST != 0)`. -/
def soundOn (s : State) : Bool := s.st != 0

/-- R35: what the host can read between steps. -/
def outputs (s : State) : Outputs where
  continues := s.continues
  diag := s.diag
  halted := s.halt
  cause := s.cause
  fb := s.fb
  dt := s.dt
  st := s.st
  soundOn := soundOn s

end Sys2Proof.Machine
end

