-- ==== Sys2Proof/Safety.lean ====
section
/-! DEFINITION. The terms claims are stated in: the machine's invariant, what counts as a safe run, frames (what is
left unchanged), and what a sprite covers. -/

namespace Sys2Proof.Machine

/-! The invariant. -/

/-- R26, R30, R201, R202: HALT and CAUSE agree, and CAUSE names a fault that can have happened. -/
def causeAgrees (s : State) : Bool :=
  match s.cause with
  | .none => !s.halt
  | .fetchFault p => s.halt && p = s.pc && 4095 ≤ p.toNat
  | .dataAddressFault a => s.halt && 4096 ≤ a.toNat

/-- What every step and every host event keeps: memory in its canonical form within the 4096 bytes (R60); PC at most
0x10FE (R26); every return address at most 4096 (R123); HALT and CAUSE in agreement (R30); the answer is `stop`, with
no diagnostic, exactly when halted (R94). -/
def State.Inv (s : State) : Prop :=
  Memory.wf s.mem = true ∧ s.pc.toNat ≤ 0x10FE ∧ (∀ w ∈ s.stk, w.toNat ≤ 4096) ∧ causeAgrees s = true ∧
    s.continues = !s.halt ∧ (s.halt = true → s.diag = .none)

/-! Safe runs. -/

/-- R217: a run has not gone wrong while HALT is 0. -/
def State.running (s : State) : Bool := !s.halt

/-- R218: the last step executed a defined instruction and reported nothing. -/
def State.clean (s : State) : Bool := !s.halt && s.diag = .none

/-- R96, 93_implementation_defined.md U2: the next step does not rest on the strict reading of the decoder. -/
def avoidsStrictDecode (s : State) : Bool := !restsOnStrictDecode (fetchWord s s.pc.toNat)

/-! Frames. -/

/-- What an instruction may change; everything not listed must be as before. -/
structure Changes where
  /-- the registers that may change -/
  regs : List Reg := []
  i : Bool := false
  pc : Bool := false
  stk : Bool := false
  fb : Bool := false
  k : Bool := false
  dt : Bool := false
  st : Bool := false
  /-- HALT and CAUSE -/
  halt : Bool := false
  /-- the bytes of memory from `memFrom` that may change, `memLen` of them -/
  memFrom : Nat := 0
  memLen : Nat := 0
  continues : Bool := false
  diag : Bool := false
  free : Bool := false

/-- `t` differs from `s` at most in what `c` lists. Memory is compared byte by byte as it reads. -/
def KeepsAllBut (c : Changes) (s t : State) : Prop :=
  (∀ r : Reg, r ∉ c.regs → t.getV r = s.getV r) ∧
  (c.i = false → t.i = s.i) ∧
  (c.pc = false → t.pc = s.pc) ∧
  (c.stk = false → t.stk = s.stk) ∧
  (c.fb = false → t.fb = s.fb) ∧
  (c.k = false → t.k = s.k) ∧
  (c.dt = false → t.dt = s.dt) ∧
  (c.st = false → t.st = s.st) ∧
  (c.halt = false → t.halt = s.halt ∧ t.cause = s.cause) ∧
  (∀ a : Nat, (a < c.memFrom ∨ c.memFrom + c.memLen ≤ a) → t.byteAt a = s.byteAt a) ∧
  (c.continues = false → t.continues = s.continues) ∧
  (c.diag = false → t.diag = s.diag) ∧
  (c.free = false → t.free = s.free)

/-- R7 `next`: PC two further, modulo 65536. -/
def AdvancesPc (n : Nat) (s t : State) : Prop := t.pc.toNat = (s.pc.toNat + n) % 65536

/-! What an instruction can write (R21, R22, R23, R33). -/

/-- R22: the six instructions that write VF as a side effect. -/
def writesFlag (i : Instr) : Bool :=
  match i with
  | .addReg _ _ | .sub _ _ | .shr _ _ | .subn _ _ | .shl _ _ | .drw _ _ _ => true
  | _ => false

/-- R21: whether a register is a destination of an instruction, side effects on VF left aside. -/
def isDestination (i : Instr) (r : Reg) : Bool :=
  match i with
  | .ldImm x _ | .addImm x _ | .rnd x _ | .ldReg x _ | .orReg x _ | .andReg x _ | .xorReg x _ | .addReg x _
  | .sub x _ | .shr x _ | .subn x _ | .shl x _ | .ldVxDt x | .ldVxK x => r = x
  | .ldRegs x => r ≤ x
  | _ => false

/-- R23, R33: the three instructions that write `I`. -/
def writesIndex (i : Instr) : Bool :=
  match i with
  | .ldI _ | .addI _ | .ldF _ => true
  | _ => false

/-- R33: `CALL` and `RET` write the stack. -/
def writesStack (i : Instr) : Bool :=
  match i with
  | .call _ | .ret => true
  | _ => false

/-- R27: `CLS` and `DRW` write the display. -/
def writesDisplay (i : Instr) : Bool :=
  match i with
  | .cls | .drw _ _ _ => true
  | _ => false

/-- R36, R76: `LD B,Vx` and `LD [I],Vx` write memory. -/
def writesMemory (i : Instr) : Bool :=
  match i with
  | .ldB _ | .stRegs _ => true
  | _ => false

/-- R202's table: how many bytes from `I` an instruction accesses as data. -/
def dataBytes (i : Instr) : Nat :=
  match i with
  | .drw _ _ n => n.val
  | .ldB _ => 3
  | .stRegs x | .ldRegs x => x.val + 1
  | _ => 0

/-- The registers `V0` to `Vx` (R174, R175). -/
def regsThrough (x : Reg) : List Reg := (List.finRange 16).filter fun r => r ≤ x

/-- R202: what a data address fault of an instruction leaves unspecified, HALT, CAUSE and the answer beside it. -/
def faultChanges (i : Instr) (s : State) : Changes :=
  match i with
  | .drw _ _ _ => { regs := [vf], fb := true, halt := true, continues := true, free := true }
  | .ldRegs x => { regs := regsThrough x, halt := true, continues := true, free := true }
  | .ldB _ | .stRegs _ =>
    { memFrom := dataAddress s 0, memLen := dataBytes i, halt := true, continues := true, free := true }
  | _ => {}

/-! Sprites (R181, R183). -/

/-- R181: whether the sprite bytes drawn at `(vx, vy)` have a 1 bit that lands on cell `(r, c)`. -/
def spriteCovers (vx vy : Byte) (sprite : List Byte) (r : Fin 32) (c : Fin 64) : Prop :=
  ∃ row bit : Nat, row < sprite.length ∧ bit < 8 ∧ (sprite.getD row 0).getLsbD (7 - bit) = true ∧
    r.val = (vy.toNat + row) % 32 ∧ c.val = (vx.toNat + bit) % 64

/-- The `n` bytes from `I` on, as `DRW` reads them (R66, R181). -/
def spriteAt (s : State) (n : Nat) : List Byte := (List.range n).map fun j => s.byteAt (dataAddress s j)

end Sys2Proof.Machine
end

