-- ==== Sys2Proof/Certificates/Slice0/Obligations.lean ====
section
/-! DEFINITION. The statements for the provers. Each docstring names the rule of spec/ it formalises. -/

open Sys2Proof Sys2Proof.Machine

/-! Encoding (30_encoding.md). -/

/-- R91, R92, R95: decoding an instruction's word gives the instruction, every operand at every value. The
encodings are the family's (log 2). -/
def Obligations.EncodedInstructionDecodesBack : Prop :=
  ∀ i : Instr, decodeWord (encode i) = .instr i

/-- R91, R92, R95: an instruction read from a word has that word as its encoding, so decoding drops no bit. The
encodings are the family's (log 2); that no loose word is accepted is the spec's decision D4 (log 3). -/
def Obligations.DecodedWordEncodesBack : Prop :=
  ∀ (w : Word) (i : Instr), decodeWord w = .instr i → encode i = w

/-- R95: 34 rows, no two of which select the same word; `decode(w)` is the row that selects `w`, or UNKNOWN(w).
The patterns are the family's (log 2); that every fixed digit is tested is the spec's decision D4 (log 3). -/
def Obligations.DecoderIsTheOpcodeMap : Prop :=
  opcodeMap.length = 34 ∧
  opcodeMap.Pairwise (fun r q => ∀ w : Word, ¬ (r.selects w = true ∧ q.selects w = true)) ∧
  ∀ w : Word, decodeWord w =
    match opcodeMap.find? (fun r => r.selects w) with
    | some r => .instr (r.build w)
    | none => .unknown w

/-- R98: the unknown words are exactly those of the six listed classes; the classes 5 and 9 rest on the strict
reading, the spec's decision D4 (log 3). -/
def Obligations.UnknownWordsAreTheListedOnes : Prop :=
  ∀ w : Word, (decodeWord w = .unknown w ↔ unknownClass w ≠ none) ∧
    ((∃ i : Instr, decodeWord w = .instr i) ↔ unknownClass w = none)

/-- R121 to R195: the words of the spec's own examples, one or more of each family (log 2). -/
def Obligations.ExampleWordsDecode : Prop :=
  decodeWord 0x00EE = .instr .ret ∧ decodeWord 0x00E0 = .instr .cls ∧
  decodeWord 0x332A = .instr (.seImm 3 0x2A) ∧ decodeWord 0xB300 = .instr (.jpV0 0x300) ∧
  decodeWord 0xC30F = .instr (.rnd 3 0x0F) ∧ decodeWord 0x8127 = .instr (.subn 1 2) ∧
  decodeWord 0xF255 = .instr (.stRegs 2) ∧ decodeWord 0xF033 = .instr (.ldB 0) ∧
  decodeWord 0xD011 = .instr (.drw 0 1 1) ∧ decodeWord 0xE29E = .instr (.skp 2) ∧
  decodeWord 0xF30A = .instr (.ldVxK 3) ∧ decodeWord 0x0123 = .unknown 0x0123

/-! The step cycle, faults and halting (30_encoding.md, 60_exceptions.md). -/

/-- R64: the byte at the lower address is the high-order byte. -/
def Obligations.FetchedWordIsBigEndian : Prop :=
  ∀ (s : State) (a : Nat), (fetchWord s a).toNat = (s.byteAt a).toNat * 256 + (s.byteAt (a + 1)).toNat

/-- R94: a step that may fetch runs the instruction the word at PC decodes to, after clearing the diagnostic and
setting the answer to `continue`; an unknown word gets R97's effect, also the words that are
unknown by the spec's decision D4 (log 3). The two outputs are latches of the model's (log 7). -/
def Obligations.StepRunsTheDecodedInstruction : Prop :=
  ∀ s : State, s.halt = false → s.pc.toNat + 1 < 4096 →
    (∀ i : Instr, decodeWord (fetchWord s s.pc.toNat) = .instr i →
      step s = exec i { s with continues := true, diag := .none }) ∧
    (∀ w : Word, decodeWord (fetchWord s s.pc.toNat) = .unknown w →
      step s = execUnknown w { s with continues := true, diag := .none })

/-- R97: an unknown word reports itself and advances PC by 2; nothing else changes and the step answers `continue`.
This covers the 7680 words 5xyN and 9xyN, N not 0, which R96 advises a model to refuse: that they run as no-ops is the
spec's decision D4 and the model's choice (log 3). -/
def Obligations.UnknownWordOnlyAdvances : Prop :=
  ∀ (s : State) (w : Word), s.halt = false → s.pc.toNat + 1 < 4096 →
    decodeWord (fetchWord s s.pc.toNat) = .unknown w →
    ∃ t, step s = .next t ∧ t.continues = true ∧ t.diag = .unknownOpcode w ∧ AdvancesPc 2 s t ∧
      KeepsAllBut { pc := true, continues := true, diag := true } s t

/-- R201: the fetch fault happens exactly when `PC + 1 >= 4096`; it sets HALT and CAUSE (D14, log 6), answers `stop`
and changes nothing else. -/
def Obligations.FetchPastTheEndHalts : Prop :=
  ∀ s : State, s.halt = false →
    (4096 ≤ s.pc.toNat + 1 →
      ∃ t, step s = .next t ∧ t.halt = true ∧ t.cause = .fetchFault s.pc ∧ t.continues = false ∧ t.diag = .none ∧
        KeepsAllBut { halt := true, continues := true, diag := true } s t) ∧
    (s.pc.toNat + 1 < 4096 → s.cause = .none →
      ∀ (t : State) (p : Word), step s = .next t → t.cause ≠ .fetchFault p)

/-- R217: while HALT is 1 a step changes nothing and answers `stop` with no diagnostic; `tick`, `set_key` and `load`
still act; no event but `reset` changes HALT, CAUSE or PC, and `reset` clears HALT. The spec's decision D14
(log 6, log 26); that a tick leaves a timer at 0 there is D17 (log 19). -/
def Obligations.HaltedMachineStaysHalted : Prop :=
  ∀ s : State, s.halt = true →
    (∃ t, step s = .next t ∧ t.continues = false ∧ t.diag = .none ∧
      KeepsAllBut { continues := true, diag := true } s t) ∧
    (∃ t, applyEvent .tick s = .next t ∧ t.dt.toNat = s.dt.toNat - 1 ∧ t.st.toNat = s.st.toNat - 1) ∧
    (∀ (k : Key) (b : Bool), ∃ t, applyEvent (.setKey k b) s = .next t ∧ t.k[k] = b) ∧
    (∀ (bytes : List Byte) (start : Nat), Memory.wf s.mem = true → start + bytes.length ≤ 4096 →
      ∃ t, applyEvent (.load bytes start) s = .next t ∧
        ∀ j < bytes.length, t.byteAt (start + j) = bytes.getD j 0) ∧
    (∀ (e : Event) (t : State), e ≠ .reset → applyEvent e s = .next t →
      t.halt = true ∧ t.cause = s.cause ∧ t.pc = s.pc) ∧
    (∃ t, applyEvent .reset s = .next t ∧ t.halt = false ∧ t.cause = .none)

/-- R94, R97, R200, R217: a step always has a next state: the model never stops where the machine goes on.
A fatal fault being a next state is the model's reading (log 6); that CALL has room at every depth is the spec's decision
D15 (log 15); that the words 5xyN and 9xyN run is D4 (log 3). -/
def Obligations.EveryStepAnswersNextState : Prop :=
  ∀ s : State, ∃ t, step s = .next t

/-! Reset and the invariant (10_state.md, 70_reset_and_hazards.md). -/

/-- R34: every value after reset, at power-on and after a `reset` event in any state. The values of the
registers are the spec's decisions D6 and D7, HALT and CAUSE D14, one reset for all of it D29 (log 11); the font bytes
are D5 (log 1). -/
def Obligations.ResetHoldsTheListedValues : Prop :=
  ∀ t : State, (t = State.reset ∨ ∃ s, applyEvent .reset s = .next t) →
    (∀ r : Reg, t.getV r = 0) ∧ t.i = 0 ∧ t.pc = 0x200 ∧ t.stk = [] ∧
    (∀ (r : Fin 32) (c : Fin 64), t.cell r c = false) ∧ (∀ k : Key, t.k[k] = false) ∧
    t.dt = 0 ∧ t.st = 0 ∧ t.halt = false ∧ t.cause = .none ∧
    (∀ a < 80, t.byteAt a = Config.hw.font.getD a 0) ∧ (∀ a, 80 ≤ a → a < 4096 → t.byteAt a = 0)

/-- R26, R34: the invariant holds at reset. The reset values are the spec's decisions D6, D7 and D14 (log 11), those of
the two output latches the model's (log 7). -/
def Obligations.ResetMeetsTheInvariant : Prop := State.reset.Inv

/-- R26, R30, R60: every step from a state that meets the invariant gives one that meets it. HALT and CAUSE
are the spec's decision D14 (log 6, log 26), the output latches the model's (log 7). -/
def Obligations.StepKeepsTheInvariant : Prop :=
  ∀ s t : State, s.Inv → step s = .next t → t.Inv

/-- R8, R26, R30, R60: so does every host event. The events act between steps, the spec's decision D18 (log 9);
HALT and CAUSE are D14 (log 6, log 26), the output latches the model's (log 7). -/
def Obligations.HostEventsKeepTheInvariant : Prop :=
  ∀ (e : Event) (s t : State), s.Inv → applyEvent e s = .next t → t.Inv

/-- R8, R26: whatever the host loads, presses and ticks, in whatever order, the invariant holds after it. The
events act between steps, the spec's decision D18 (log 9); HALT and CAUSE are D14 (log 6, log 26), the output latches
the model's (log 7). -/
def Obligations.EveryScheduleKeepsTheInvariant : Prop :=
  ∀ (es : List Event) (s t : State), s.Inv → runEvents es s = .next t → t.Inv

/-! Control transfer (40_control_transfer.md). -/

/-- R121: RET pops the top into PC, unchanged; on the empty stack it only advances, with a diagnostic. -/
def Obligations.RetPopsOrFallsThrough : Prop :=
  ∀ s : State,
    (∀ (l : List Word) (w : Word), s.stk = l ++ [w] →
      ∃ t, exec .ret s = .next t ∧ t.pc = w ∧ t.stk = l ∧ KeepsAllBut { pc := true, stk := true } s t) ∧
    (s.stk = [] →
      ∃ t, exec .ret s = .next t ∧ t.diag = .emptyStackReturn ∧ t.stk = [] ∧ AdvancesPc 2 s t ∧
        KeepsAllBut { pc := true, diag := true } s t)

/-- R122: JP nnn. -/
def Obligations.JpSetsPc : Prop :=
  ∀ (nnn : Addr) (s : State), ∃ t, exec (.jp nnn) s = .next t ∧ t.pc.toNat = nnn.toNat ∧
    KeepsAllBut { pc := true } s t

/-- R123: CALL pushes `PC + 2` and jumps; it never fails for lack of room, the spec's decision D15
(log 15). -/
def Obligations.CallPushesTheReturnAddress : Prop :=
  ∀ (nnn : Addr) (s : State), ∃ (t : State) (w : Word), exec (.call nnn) s = .next t ∧
    w.toNat = (s.pc.toNat + 2) % 65536 ∧ t.stk = s.stk ++ [w] ∧ t.pc.toNat = nnn.toNat ∧
    KeepsAllBut { pc := true, stk := true } s t

/-- R124, R125: SE and SNE with an immediate. -/
def Obligations.ImmediateSkipsTestEquality : Prop :=
  ∀ (x : Reg) (nn : Byte) (s : State),
    (∃ t, exec (.seImm x nn) s = .next t ∧ AdvancesPc (if s.getV x = nn then 4 else 2) s t ∧
      KeepsAllBut { pc := true } s t) ∧
    (∃ t, exec (.sneImm x nn) s = .next t ∧ AdvancesPc (if s.getV x = nn then 2 else 4) s t ∧
      KeepsAllBut { pc := true } s t)

/-- R126, R127: SE and SNE with two registers; with `x = y` SE always skips and SNE never does. -/
def Obligations.RegisterSkipsTestEquality : Prop :=
  ∀ (x y : Reg) (s : State),
    (∃ t, exec (.seReg x y) s = .next t ∧ AdvancesPc (if s.getV x = s.getV y then 4 else 2) s t ∧
      KeepsAllBut { pc := true } s t) ∧
    (∃ t, exec (.sneReg x y) s = .next t ∧ AdvancesPc (if s.getV x = s.getV y then 2 else 4) s t ∧
      KeepsAllBut { pc := true } s t)

/-- R128: JP V0,nnn adds V0, with no reduction to 12 bits. -/
def Obligations.OffsetJumpAddsV0 : Prop :=
  ∀ (nnn : Addr) (s : State), ∃ t, exec (.jpV0 nnn) s = .next t ∧ t.pc.toNat = nnn.toNat + (s.getV 0).toNat ∧
    KeepsAllBut { pc := true } s t

/-- R129: two steps through a CALL and the RET at its target come back to the instruction after the CALL with the stack
as it was. That the CALL has room at every depth of the stack is the spec's decision D15 (log 15). -/
def Obligations.CallThenReturnComesBack : Prop :=
  ∀ (s : State) (nnn : Addr), s.halt = false → s.pc.toNat + 1 < 4096 → nnn.toNat + 1 < 4096 →
    decodeWord (fetchWord s s.pc.toNat) = .instr (.call nnn) →
    decodeWord (fetchWord s nnn.toNat) = .instr .ret →
    ∃ t, runEvents [.step, .step] s = .next t ∧ t.pc.toNat = s.pc.toNat + 2 ∧ t.stk = s.stk ∧
      KeepsAllBut { pc := true, continues := true, diag := true } s t

/-! Immediate and random (41_immediate_random.md). -/

/-- R140: LD Vx,nn. -/
def Obligations.LoadImmediateSetsTheRegister : Prop :=
  ∀ (x : Reg) (nn : Byte) (s : State), ∃ t, exec (.ldImm x nn) s = .next t ∧ t.getV x = nn ∧ AdvancesPc 2 s t ∧
    KeepsAllBut { regs := [x], pc := true } s t

/-- R141: ADD Vx,nn wraps modulo 256 and writes no flag. -/
def Obligations.AddImmediateWrapsWithoutFlag : Prop :=
  ∀ (x : Reg) (nn : Byte) (s : State), ∃ t, exec (.addImm x nn) s = .next t ∧
    (t.getV x).toNat = ((s.getV x).toNat + nn.toNat) % 256 ∧ AdvancesPc 2 s t ∧
    KeepsAllBut { regs := [x], pc := true } s t

/-- R142: RND masks a byte drawn afresh; no bit that `nn` lacks is ever set, whatever the byte is. The byte is a
free value, the spec's decision D20 (log 4), and its count the model's own (log 8). -/
def Obligations.RandomByteIsMasked : Prop :=
  (∀ (x : Reg) (nn : Byte) (s : State), ∃ t, exec (.rnd x nn) s = .next t ∧
    t.getV x = Config.freeByte s.free &&& nn ∧ t.getV x &&& ~~~nn = 0 ∧ (nn = 0 → t.getV x = 0) ∧
    t.free = s.free + 1 ∧ AdvancesPc 2 s t ∧ KeepsAllBut { regs := [x], pc := true, free := true } s t) ∧
  (∀ (r : Byte) (x : Reg) (nn : Byte) (s : State), (randomMasked r x nn s).getV x = r &&& nn)

/-! Register-to-register operations (42_alu.md). -/

/-- R151: LD Vx,Vy copies and writes no flag. -/
def Obligations.CopyMovesTheRegister : Prop :=
  ∀ (x y : Reg) (s : State), ∃ t, exec (.ldReg x y) s = .next t ∧ t.getV x = s.getV y ∧ AdvancesPc 2 s t ∧
    KeepsAllBut { regs := [x], pc := true } s t

/-- R152, R153, R154: OR, AND, XOR bit by bit, and no flag. -/
def Obligations.LogicIsBitwiseWithoutFlag : Prop :=
  ∀ (x y : Reg) (s : State),
    (∃ t, exec (.orReg x y) s = .next t ∧ AdvancesPc 2 s t ∧ KeepsAllBut { regs := [x], pc := true } s t ∧
      ∀ j < 8, (t.getV x).getLsbD j = ((s.getV x).getLsbD j || (s.getV y).getLsbD j)) ∧
    (∃ t, exec (.andReg x y) s = .next t ∧ AdvancesPc 2 s t ∧ KeepsAllBut { regs := [x], pc := true } s t ∧
      ∀ j < 8, (t.getV x).getLsbD j = ((s.getV x).getLsbD j && (s.getV y).getLsbD j)) ∧
    (∃ t, exec (.xorReg x y) s = .next t ∧ AdvancesPc 2 s t ∧ KeepsAllBut { regs := [x], pc := true } s t ∧
      ∀ j < 8, (t.getV x).getLsbD j = ((s.getV x).getLsbD j ^^ (s.getV y).getLsbD j))

/-- R155: ADD Vx,Vy: the sum modulo 256, then the carry out in VF; with `x = 15` VF ends as the carry:
the order is the spec's decision D9 (log 18). -/
def Obligations.AddWritesSumThenCarry : Prop :=
  ∀ (x y : Reg) (s : State), ∃ t, exec (.addReg x y) s = .next t ∧
    (x ≠ vf → (t.getV x).toNat = ((s.getV x).toNat + (s.getV y).toNat) % 256) ∧
    (t.getV vf).toNat = (if 255 < (s.getV x).toNat + (s.getV y).toNat then 1 else 0) ∧
    AdvancesPc 2 s t ∧ KeepsAllBut { regs := [x, vf], pc := true } s t

/-- R156: SUB Vx,Vy: the difference modulo 256, then the inverse of the borrow in VF; the order is D9 (log 18). -/
def Obligations.SubWritesDifferenceThenNotBorrow : Prop :=
  ∀ (x y : Reg) (s : State), ∃ t, exec (.sub x y) s = .next t ∧
    (x ≠ vf → ((t.getV x).toNat : Int) = (((s.getV x).toNat : Int) - (s.getV y).toNat) % 256) ∧
    (t.getV vf).toNat = (if (s.getV y).toNat ≤ (s.getV x).toNat then 1 else 0) ∧
    AdvancesPc 2 s t ∧ KeepsAllBut { regs := [x, vf], pc := true } s t

/-- R157: SHR Vx: half of V[x] whatever `y` is, then the old bit 0 in VF. The source register is the spec's decision D8
(log 13), the order D9 (log 18), the bit reported log 23. -/
def Obligations.ShiftRightHalvesThenWritesBitZero : Prop :=
  ∀ (x y : Reg) (s : State), ∃ t, exec (.shr x y) s = .next t ∧
    (x ≠ vf → (t.getV x).toNat = (s.getV x).toNat / 2) ∧ (t.getV vf).toNat = (s.getV x).toNat % 2 ∧
    AdvancesPc 2 s t ∧ KeepsAllBut { regs := [x, vf], pc := true } s t

/-- R158: SUBN Vx,Vy: `V[y] - V[x]` modulo 256, then the inverse of the borrow in VF. The operand
order is the family's (log 23), the order of the writes D9 (log 18). -/
def Obligations.SubnWritesReverseDifferenceThenNotBorrow : Prop :=
  ∀ (x y : Reg) (s : State), ∃ t, exec (.subn x y) s = .next t ∧
    (x ≠ vf → ((t.getV x).toNat : Int) = (((s.getV y).toNat : Int) - (s.getV x).toNat) % 256) ∧
    (t.getV vf).toNat = (if (s.getV x).toNat ≤ (s.getV y).toNat then 1 else 0) ∧
    AdvancesPc 2 s t ∧ KeepsAllBut { regs := [x, vf], pc := true } s t

/-- R159: SHL Vx: twice V[x] modulo 256 whatever `y` is, then the old bit 7 in VF. The source register is D8 (log 13),
the order of the writes D9 (log 18), the bit reported log 23. -/
def Obligations.ShiftLeftDoublesThenWritesBitSeven : Prop :=
  ∀ (x y : Reg) (s : State), ∃ t, exec (.shl x y) s = .next t ∧
    (x ≠ vf → (t.getV x).toNat = (s.getV x).toNat * 2 % 256) ∧ (t.getV vf).toNat = (s.getV x).toNat / 128 ∧
    AdvancesPc 2 s t ∧ KeepsAllBut { regs := [x, vf], pc := true } s t

/-! Index register and memory (43_index_memory.md, 20_memory.md). -/

/-- R170: LD I,nnn; no register is written. -/
def Obligations.LoadIndexSetsI : Prop :=
  ∀ (nnn : Addr) (s : State), ∃ t, exec (.ldI nnn) s = .next t ∧ t.i.toNat = nnn.toNat ∧ AdvancesPc 2 s t ∧
    KeepsAllBut { i := true, pc := true } s t

/-- R171: ADD I,Vx modulo 65536 (the spec's decision D11, log 16), no flag. -/
def Obligations.AddIndexWrapsWithoutFlag : Prop :=
  ∀ (x : Reg) (s : State), ∃ t, exec (.addI x) s = .next t ∧
    t.i.toNat = (s.i.toNat + (s.getV x).toNat) % 65536 ∧ AdvancesPc 2 s t ∧
    KeepsAllBut { i := true, pc := true } s t

/-- R172: LD F,Vx: five times the low digit of V[x]. -/
def Obligations.FontAddressIsFiveTimesTheDigit : Prop :=
  ∀ (x : Reg) (s : State), ∃ t, exec (.ldF x) s = .next t ∧ t.i.toNat = (s.getV x).toNat % 16 * 5 ∧
    AdvancesPc 2 s t ∧ KeepsAllBut { i := true, pc := true } s t

/-- R77: while the font is as reset left it, the five bytes at the address are the glyph of the digit
(the bytes are D5, log 1). -/
def Obligations.FontAddressPointsAtTheGlyph : Prop :=
  ∀ (x : Reg) (s : State), (∀ a < 80, s.byteAt a = State.reset.byteAt a) →
    ∃ t, exec (.ldF x) s = .next t ∧
      ∀ j < 5, t.byteAt (t.i.toNat + j) = Config.hw.font.getD ((s.getV x).toNat % 16 * 5 + j) 0

/-- R173: LD B,Vx stores the three decimal digits at `I`, `I+1`, `I+2`, and nothing else (`I` unchanged: D10, log 14); it
faults when the last is out of range, on naturals (D12, log 17; D13, log 5, log 6). -/
def Obligations.BcdStoresThreeDigits : Prop :=
  ∀ (x : Reg) (s : State),
    (s.i.toNat + 2 < 4096 → Memory.wf s.mem = true →
      ∃ t, exec (.ldB x) s = .next t ∧
        (t.byteAt (dataAddress s 0)).toNat = (s.getV x).toNat / 100 ∧
        (t.byteAt (dataAddress s 1)).toNat = (s.getV x).toNat / 10 % 10 ∧
        (t.byteAt (dataAddress s 2)).toNat = (s.getV x).toNat % 10 ∧
        AdvancesPc 2 s t ∧ KeepsAllBut { pc := true, memFrom := dataAddress s 0, memLen := 3 } s t) ∧
    (4096 ≤ s.i.toNat + 2 →
      ∃ (t : State) (a : Word), exec (.ldB x) s = .next t ∧ t.halt = true ∧ t.cause = .dataAddressFault a ∧
        a.toNat = max s.i.toNat 4096 ∧ t.pc = s.pc)

/-- R174: LD [I],Vx stores V0 to Vx at ascending addresses from `I`, and nothing else (`I` unchanged: D10, log 14);
it faults when the last is out of range, on naturals (D12, log 17; D13, log 5, log 6). -/
def Obligations.StoreRegistersWritesTheRun : Prop :=
  ∀ (x : Reg) (s : State),
    (s.i.toNat + x.val < 4096 → Memory.wf s.mem = true →
      ∃ t, exec (.stRegs x) s = .next t ∧ (∀ k : Reg, k ≤ x → t.byteAt (dataAddress s k.val) = s.getV k) ∧
        AdvancesPc 2 s t ∧ KeepsAllBut { pc := true, memFrom := dataAddress s 0, memLen := x.val + 1 } s t) ∧
    (4096 ≤ s.i.toNat + x.val →
      ∃ (t : State) (a : Word), exec (.stRegs x) s = .next t ∧ t.halt = true ∧ t.cause = .dataAddressFault a ∧
        a.toNat = max s.i.toNat 4096 ∧ t.pc = s.pc)

/-- R175: LD Vx,[I] loads V0 to Vx from ascending addresses from `I`, and nothing else (`I` unchanged: D10, log 14);
it faults when the last is out of range, on naturals (D12, log 17; D13, log 5, log 6). -/
def Obligations.LoadRegistersReadsTheRun : Prop :=
  ∀ (x : Reg) (s : State),
    (s.i.toNat + x.val < 4096 →
      ∃ t, exec (.ldRegs x) s = .next t ∧ (∀ k : Reg, k ≤ x → t.getV k = s.byteAt (dataAddress s k.val)) ∧
        AdvancesPc 2 s t ∧ KeepsAllBut { regs := regsThrough x, pc := true } s t) ∧
    (4096 ≤ s.i.toNat + x.val →
      ∃ (t : State) (a : Word), exec (.ldRegs x) s = .next t ∧ t.halt = true ∧ t.cause = .dataAddressFault a ∧
        a.toNat = max s.i.toNat 4096 ∧ t.pc = s.pc)

/-- R175: storing V0 to Vx and loading them back at the same `I` leaves every register as it was. That
the store leaves `I`, so that the load reads where it wrote, and that `I` ends as it began are the spec's decision D10
(log 14). -/
def Obligations.StoreThenLoadKeepsTheRegisters : Prop :=
  ∀ (x : Reg) (s : State), s.i.toNat + x.val < 4096 → Memory.wf s.mem = true →
    ∃ t u, exec (.stRegs x) s = .next t ∧ exec (.ldRegs x) t = .next u ∧ (∀ r : Reg, u.getV r = s.getV r) ∧
      u.i = s.i ∧ ∀ a : Nat, u.byteAt a = t.byteAt a

/-- R202: a data address fault happens exactly when the last byte the instruction accesses is out of range; it sets
HALT and CAUSE with the first address out of range, answers `stop`, leaves PC, and touches only what the instruction
could have written (D13, log 5, log 6). The address is a sum of naturals (D12, log 17). -/
def Obligations.DataFaultIsExactAndContained : Prop :=
  ∀ (i : Instr) (s : State), Memory.wf s.mem = true →
    (dataBytes i ≠ 0 → 4096 < s.i.toNat + dataBytes i →
      ∃ (t : State) (a : Word), exec i s = .next t ∧ t.halt = true ∧ t.cause = .dataAddressFault a ∧
        a.toNat = (if s.i.toNat ≤ 4096 then 4096 else s.i.toNat) ∧ t.continues = false ∧
        KeepsAllBut (faultChanges i s) s t) ∧
    ((dataBytes i = 0 ∨ s.i.toNat + dataBytes i ≤ 4096) →
      ∃ t, exec i s = .next t ∧ t.halt = s.halt ∧ t.cause = s.cause ∧ t.continues = s.continues)

/-- R73: the word a store puts right after the storing instruction is what the very next step runs. -/
def Obligations.StoredInstructionRunsNext : Prop :=
  ∀ (s : State) (x : Reg) (i : Instr), s.halt = false → Memory.wf s.mem = true → s.pc.toNat + 3 < 4096 →
    decodeWord (fetchWord s s.pc.toNat) = .instr (.stRegs x) → 1 ≤ x.val → s.i.toNat = s.pc.toNat + 2 →
    s.i.toNat + x.val < 4096 → decodeWord (wordOfBytes (s.getV 0) (s.getV 1)) = .instr i →
    ∃ t, step s = .next t ∧ step t = exec i { t with continues := true, diag := .none }

/-! Display (44_display.md). -/

/-- R180: CLS. -/
def Obligations.ClearUnlightsEveryCell : Prop :=
  ∀ s : State, ∃ t, exec .cls s = .next t ∧ (∀ (r : Fin 32) (c : Fin 64), t.cell r c = false) ∧
    AdvancesPc 2 s t ∧ KeepsAllBut { pc := true, fb := true } s t

/-- R181: DRW flips exactly the cells the sprite covers and puts in VF whether any of them was lit; it faults when the
last sprite byte is out of range. The coordinates are read first and VF is written last: D24 (log 18).
The address is a sum of naturals (D12, log 17); the fault is D13 (log 5, log 6); `I` is unchanged by D10 (log 14). -/
def Obligations.DrawFlipsTheCoveredCells : Prop :=
  ∀ (x y : Reg) (n : Fin 16) (s : State),
    (n.val = 0 ∨ s.i.toNat + n.val ≤ 4096 →
      ∃ t, exec (.drw x y n) s = .next t ∧
        (∀ (r : Fin 32) (c : Fin 64),
          (spriteCovers (s.getV x) (s.getV y) (spriteAt s n.val) r c → t.cell r c = !s.cell r c) ∧
          (¬ spriteCovers (s.getV x) (s.getV y) (spriteAt s n.val) r c → t.cell r c = s.cell r c)) ∧
        ((∃ (r : Fin 32) (c : Fin 64), spriteCovers (s.getV x) (s.getV y) (spriteAt s n.val) r c ∧
          s.cell r c = true) → t.getV vf = 1) ∧
        ((¬ ∃ (r : Fin 32) (c : Fin 64), spriteCovers (s.getV x) (s.getV y) (spriteAt s n.val) r c ∧
          s.cell r c = true) → t.getV vf = 0) ∧
        AdvancesPc 2 s t ∧ KeepsAllBut { regs := [vf], pc := true, fb := true } s t) ∧
    (n.val ≠ 0 → 4096 < s.i.toNat + n.val →
      ∃ (t : State) (a : Word), exec (.drw x y n) s = .next t ∧ t.halt = true ∧ t.cause = .dataAddressFault a ∧
        a.toNat = max s.i.toNat 4096 ∧ t.pc = s.pc)

/-- R185: drawing the same sprite twice at the same place restores the display; the second draw reports a collision
exactly when the first left a covered cell lit. That the first draw leaves `I`, so that the second reads the same sprite,
is the spec's decision D10 (log 14); that `n = 0` clears VF is D24 (log 18). -/
def Obligations.DrawingTwiceRestoresTheDisplay : Prop :=
  ∀ (x y : Reg) (n : Fin 16) (s : State), x ≠ vf → y ≠ vf → (n.val = 0 ∨ s.i.toNat + n.val ≤ 4096) →
    ∃ t u, exec (.drw x y n) s = .next t ∧ exec (.drw x y n) t = .next u ∧ u.fb = s.fb ∧
      ((∃ (r : Fin 32) (c : Fin 64), spriteCovers (s.getV x) (s.getV y) (spriteAt s n.val) r c ∧
        s.cell r c = false) → u.getV vf = 1) ∧
      ((∀ (r : Fin 32) (c : Fin 64), spriteCovers (s.getV x) (s.getV y) (spriteAt s n.val) r c →
        s.cell r c = true) → u.getV vf = 0)

/-! Keys and timers (45_keys_timers.md). -/

/-- R190, R191: SKP and SKNP test the key numbered by the low digit of V[x]. -/
def Obligations.KeySkipsTestTheLowDigit : Prop :=
  ∀ (x : Reg) (s : State) (k : Key), k.val = (s.getV x).toNat % 16 →
    (∃ t, exec (.skp x) s = .next t ∧ AdvancesPc (if s.k[k] = true then 4 else 2) s t ∧
      KeepsAllBut { pc := true } s t) ∧
    (∃ t, exec (.sknp x) s = .next t ∧ AdvancesPc (if s.k[k] = true then 2 else 4) s t ∧
      KeepsAllBut { pc := true } s t)

/-- R192: LD Vx,K takes the lowest pressed key; with no key pressed nothing changes at all. -/
def Obligations.KeyWaitTakesTheLowestKeyOrWaits : Prop :=
  ∀ (x : Reg) (s : State),
    (∀ k : Key, s.k[k] = true → (∀ j : Key, j < k → s.k[j] = false) →
      ∃ t, exec (.ldVxK x) s = .next t ∧ (t.getV x).toNat = k.val ∧ AdvancesPc 2 s t ∧
        KeepsAllBut { regs := [x], pc := true } s t) ∧
    ((∀ k : Key, s.k[k] = false) → exec (.ldVxK x) s = .next s)

/-- R193: LD Vx,DT reads the delay timer. -/
def Obligations.ReadDelayTimerCopiesDt : Prop :=
  ∀ (x : Reg) (s : State), ∃ t, exec (.ldVxDt x) s = .next t ∧ t.getV x = s.dt ∧ AdvancesPc 2 s t ∧
    KeepsAllBut { regs := [x], pc := true } s t

/-- R194: LD DT,Vx. -/
def Obligations.SetDelayTimerWritesDt : Prop :=
  ∀ (x : Reg) (s : State), ∃ t, exec (.ldDtVx x) s = .next t ∧ t.dt = s.getV x ∧ AdvancesPc 2 s t ∧
    KeepsAllBut { pc := true, dt := true } s t

/-- R195: LD ST,Vx; the sound output is on exactly while ST is not 0. -/
def Obligations.SetSoundTimerWritesSt : Prop :=
  ∀ (x : Reg) (s : State), ∃ t, exec (.ldStVx x) s = .next t ∧ t.st = s.getV x ∧
    ((outputs t).soundOn = true ↔ s.getV x ≠ 0) ∧ AdvancesPc 2 s t ∧ KeepsAllBut { pc := true, st := true } s t

/-! Host events (60_exceptions.md, 20_memory.md). -/

/-- R210: a tick counts both timers down by one, and a timer at 0 stays there (D17, log 19). -/
def Obligations.TickCountsBothTimersDown : Prop :=
  ∀ s : State, ∃ t, applyEvent .tick s = .next t ∧
    t.dt.toNat = (if 0 < s.dt.toNat then s.dt.toNat - 1 else 0) ∧
    t.st.toNat = (if 0 < s.st.toNat then s.st.toNat - 1 else 0) ∧
    KeepsAllBut { dt := true, st := true } s t

/-- R212: `set_key(k, b)` sets that one level and nothing else. -/
def Obligations.SetKeyWritesOneLevel : Prop :=
  ∀ (k : Key) (b : Bool) (s : State), ∃ t, applyEvent (.setKey k b) s = .next t ∧ t.k[k] = b ∧
    (∀ j : Key, j ≠ k → t.k[j] = s.k[j]) ∧ KeepsAllBut { k := true } s t

/-- R69: a load copies its bytes and changes nothing else; one that would pass the end has no transition
(D22, log 20). -/
def Obligations.LoadCopiesItsBytesOrIsRefused : Prop :=
  ∀ (bytes : List Byte) (start : Nat) (s : State), Memory.wf s.mem = true →
    (start + bytes.length ≤ 4096 →
      ∃ t, applyEvent (.load bytes start) s = .next t ∧
        (∀ j < bytes.length, t.byteAt (start + j) = bytes.getD j 0) ∧
        KeepsAllBut { memFrom := start, memLen := bytes.length } s t) ∧
    (4096 < start + bytes.length → ∀ t, applyEvent (.load bytes start) s ≠ .next t)

/-! Rules of the whole machine (10_state.md). -/

/-- R21, R22: an instruction changes no register but its destination and, for the six flag writers, VF.
After a data address fault too: what such a fault may touch is the spec's decision D13 (log 5). -/
def Obligations.OnlyDestinationsAndVfChange : Prop :=
  ∀ (i : Instr) (s t : State) (r : Reg), exec i s = .next t → t.getV r ≠ s.getV r →
    isDestination i r = true ∨ (r = vf ∧ writesFlag i = true)

/-- R22: a flag writer that completes leaves exactly 0 or 1 in VF. With VF as the destination too, because the flag is
written last: the spec's decisions D9 and D24 (log 18). -/
def Obligations.FlagWritersLeaveZeroOrOne : Prop :=
  ∀ (i : Instr) (s : State), writesFlag i = true → (dataBytes i = 0 ∨ s.i.toNat + dataBytes i ≤ 4096) →
    ∃ t, exec i s = .next t ∧ (t.getV vf = 0 ∨ t.getV vf = 1)

/-- R23, R33, R36: `I`, STK, FB, DT, ST and memory are changed only by the instructions that the spec lists for each;
no instruction changes K; stores stay within the bytes from `I` that the instruction accesses. That DRW,
LD B, LD [I] and LD Vx,[I] keep `I` is the spec's decision D10 (log 14); the address is a sum of naturals (D12, log 17);
what a data address fault may touch is D13 (log 5). -/
def Obligations.DedicatedStateHasOnlyItsWriters : Prop :=
  ∀ (i : Instr) (s t : State), exec i s = .next t →
    (writesIndex i = false → t.i = s.i) ∧ (writesStack i = false → t.stk = s.stk) ∧
    (writesDisplay i = false → t.fb = s.fb) ∧ t.k = s.k ∧
    ((∀ x, i ≠ .ldDtVx x) → t.dt = s.dt) ∧ ((∀ x, i ≠ .ldStVx x) → t.st = s.st) ∧
    (writesMemory i = false → ∀ a, t.byteAt a = s.byteAt a) ∧
    (Memory.wf s.mem = true →
      ∀ a, (a < dataAddress s 0 ∨ dataAddress s (dataBytes i) ≤ a) → t.byteAt a = s.byteAt a)
end

