-- ==== Sys2Proof/Laws/Decode.lean ====
section
/-! SUPPORT. The formats and the fields as numbers (spec 30_encoding.md R91, R92): each is unfolded here once. -/

namespace Sys2Proof

/-- Concatenation puts the first operand in the high bits (R6 `a || b`). -/
theorem append_toNat {m n : Nat} (a : BitVec m) (b : BitVec n) : (a ++ b).toNat = a.toNat * 2 ^ n + b.toNat := by
  rw [BitVec.toNat_append, ← Nat.shiftLeft_add_eq_or_of_lt b.isLt, Nat.shiftLeft_eq]

theorem formatZ_toNat (nnn : Addr) : (formatZ nnn).toNat = nnn.toNat := by
  rw [formatZ, append_toNat]; simp

theorem formatA_toNat (op : Nibble) (nnn : Addr) : (formatA op nnn).toNat = op.toNat * 4096 + nnn.toNat :=
  append_toNat op nnn

theorem formatXI_toNat (op : Nibble) (x : Reg) (nn : Byte) :
    (formatXI op x nn).toNat = op.toNat * 4096 + x.val * 256 + nn.toNat := by
  unfold formatXI
  rw [append_toNat, append_toNat]
  simp
  omega

theorem formatXYN_toNat (op : Nibble) (x y : Reg) (n : Nibble) :
    (formatXYN op x y n).toNat = op.toNat * 4096 + x.val * 256 + y.val * 16 + n.toNat := by
  unfold formatXYN
  rw [append_toNat, append_toNat, append_toNat]
  simp
  omega

theorem formatXF_toNat (op : Nibble) (x : Reg) (function : Byte) :
    (formatXF op x function).toNat = op.toNat * 4096 + x.val * 256 + function.toNat := formatXI_toNat op x function

theorem wordOfBytes_toNat (hi lo : Byte) : (wordOfBytes hi lo).toNat = hi.toNat * 256 + lo.toNat :=
  append_toNat hi lo

theorem fieldOp_toNat (w : Word) : (fieldOp w).toNat = w.toNat / 4096 := by
  have := w.isLt
  simp [fieldOp, BitVec.extractLsb'_toNat, Nat.shiftRight_eq_div_pow]
  omega

theorem fieldX_val (w : Word) : (fieldX w).val = w.toNat / 256 % 16 := by
  simp [fieldX, Nat.shiftRight_eq_div_pow]

theorem fieldY_val (w : Word) : (fieldY w).val = w.toNat / 16 % 16 := by
  simp [fieldY, Nat.shiftRight_eq_div_pow]

theorem fieldN_val (w : Word) : (fieldN w).val = w.toNat % 16 := by
  simp [fieldN]

theorem fieldNN_toNat (w : Word) : (fieldNN w).toNat = w.toNat % 256 := by
  simp [fieldNN, BitVec.extractLsb'_toNat]

theorem fieldNNN_toNat (w : Word) : (fieldNNN w).toNat = w.toNat % 4096 := by
  simp [fieldNNN, BitVec.extractLsb'_toNat]

theorem highByte_toNat (w : Word) : (highByte w).toNat = w.toNat / 256 := by
  have := w.isLt
  simp [highByte, BitVec.extractLsb'_toNat, Nat.shiftRight_eq_div_pow]
  omega

theorem lowByte_toNat (w : Word) : (lowByte w).toNat = w.toNat % 256 := by
  simp [lowByte, BitVec.extractLsb'_toNat]

/-- A word laid out in two bytes and read back is the word (R64, R67). -/
theorem wordOfBytes_high_low (w : Word) : wordOfBytes (highByte w) (lowByte w) = w := by
  apply BitVec.eq_of_toNat_eq
  rw [wordOfBytes_toNat, highByte_toNat, lowByte_toNat]
  omega

/-- R98 read the other way: the words that are instructions, as conditions on numbers. -/
theorem unknownClass_eq_none (w : Word) : unknownClass w = none ↔
    (w.toNat / 4096 = 0 → w.toNat % 4096 = 0x0E0 ∨ w.toNat % 4096 = 0x0EE) ∧
    (w.toNat / 4096 = 5 → w.toNat % 16 = 0) ∧
    (w.toNat / 4096 = 8 → w.toNat % 16 < 8 ∨ w.toNat % 16 = 0xE) ∧
    (w.toNat / 4096 = 9 → w.toNat % 16 = 0) ∧
    (w.toNat / 4096 = 14 → w.toNat % 256 = 0x9E ∨ w.toNat % 256 = 0xA1) ∧
    (w.toNat / 4096 = 15 → w.toNat % 256 = 0x07 ∨ w.toNat % 256 = 0x0A ∨ w.toNat % 256 = 0x15 ∨
      w.toNat % 256 = 0x18 ∨ w.toNat % 256 = 0x1E ∨ w.toNat % 256 = 0x29 ∨ w.toNat % 256 = 0x33 ∨
      w.toNat % 256 = 0x55 ∨ w.toNat % 256 = 0x65) := by
  simp only [unknownClass, List.mem_cons, List.not_mem_nil, or_false]
  split_ifs with h1 h2 h3 h4 h5 h6 <;> simp only [false_iff, true_iff] <;> omega

end Sys2Proof
end

