-- ==== Sys2Proof/Laws/State.lean ====
section
/-! SUPPORT. One lemma per field per update of the state, each true by rfl; then the same for a register and for a
byte of memory as the accessors read them. -/

namespace Sys2Proof.Machine

variable (s : State)

@[simp] theorem State.setV_v (r : Reg) (b : Byte) : (s.setV r b).v = s.v.set r b := rfl
@[simp] theorem State.setV_i (r : Reg) (b : Byte) : (s.setV r b).i = s.i := rfl
@[simp] theorem State.setV_pc (r : Reg) (b : Byte) : (s.setV r b).pc = s.pc := rfl
@[simp] theorem State.setV_stk (r : Reg) (b : Byte) : (s.setV r b).stk = s.stk := rfl
@[simp] theorem State.setV_fb (r : Reg) (b : Byte) : (s.setV r b).fb = s.fb := rfl
@[simp] theorem State.setV_k (r : Reg) (b : Byte) : (s.setV r b).k = s.k := rfl
@[simp] theorem State.setV_dt (r : Reg) (b : Byte) : (s.setV r b).dt = s.dt := rfl
@[simp] theorem State.setV_st (r : Reg) (b : Byte) : (s.setV r b).st = s.st := rfl
@[simp] theorem State.setV_halt (r : Reg) (b : Byte) : (s.setV r b).halt = s.halt := rfl
@[simp] theorem State.setV_cause (r : Reg) (b : Byte) : (s.setV r b).cause = s.cause := rfl
@[simp] theorem State.setV_mem (r : Reg) (b : Byte) : (s.setV r b).mem = s.mem := rfl
@[simp] theorem State.setV_continues (r : Reg) (b : Byte) : (s.setV r b).continues = s.continues := rfl
@[simp] theorem State.setV_diag (r : Reg) (b : Byte) : (s.setV r b).diag = s.diag := rfl
@[simp] theorem State.setV_free (r : Reg) (b : Byte) : (s.setV r b).free = s.free := rfl
@[simp] theorem State.setV_byteAt (r : Reg) (b : Byte) (a' : Nat) : (s.setV r b).byteAt a' = s.byteAt a' := rfl

@[simp] theorem State.setI_v (w : Word) : (s.setI w).v = s.v := rfl
@[simp] theorem State.setI_i (w : Word) : (s.setI w).i = w := rfl
@[simp] theorem State.setI_pc (w : Word) : (s.setI w).pc = s.pc := rfl
@[simp] theorem State.setI_stk (w : Word) : (s.setI w).stk = s.stk := rfl
@[simp] theorem State.setI_fb (w : Word) : (s.setI w).fb = s.fb := rfl
@[simp] theorem State.setI_k (w : Word) : (s.setI w).k = s.k := rfl
@[simp] theorem State.setI_dt (w : Word) : (s.setI w).dt = s.dt := rfl
@[simp] theorem State.setI_st (w : Word) : (s.setI w).st = s.st := rfl
@[simp] theorem State.setI_halt (w : Word) : (s.setI w).halt = s.halt := rfl
@[simp] theorem State.setI_cause (w : Word) : (s.setI w).cause = s.cause := rfl
@[simp] theorem State.setI_mem (w : Word) : (s.setI w).mem = s.mem := rfl
@[simp] theorem State.setI_continues (w : Word) : (s.setI w).continues = s.continues := rfl
@[simp] theorem State.setI_diag (w : Word) : (s.setI w).diag = s.diag := rfl
@[simp] theorem State.setI_free (w : Word) : (s.setI w).free = s.free := rfl
@[simp] theorem State.setI_getV (w : Word) (q' : Reg) : (s.setI w).getV q' = s.getV q' := rfl
@[simp] theorem State.setI_byteAt (w : Word) (a' : Nat) : (s.setI w).byteAt a' = s.byteAt a' := rfl

@[simp] theorem State.setPc_v (w : Word) : (s.setPc w).v = s.v := rfl
@[simp] theorem State.setPc_i (w : Word) : (s.setPc w).i = s.i := rfl
@[simp] theorem State.setPc_pc (w : Word) : (s.setPc w).pc = w := rfl
@[simp] theorem State.setPc_stk (w : Word) : (s.setPc w).stk = s.stk := rfl
@[simp] theorem State.setPc_fb (w : Word) : (s.setPc w).fb = s.fb := rfl
@[simp] theorem State.setPc_k (w : Word) : (s.setPc w).k = s.k := rfl
@[simp] theorem State.setPc_dt (w : Word) : (s.setPc w).dt = s.dt := rfl
@[simp] theorem State.setPc_st (w : Word) : (s.setPc w).st = s.st := rfl
@[simp] theorem State.setPc_halt (w : Word) : (s.setPc w).halt = s.halt := rfl
@[simp] theorem State.setPc_cause (w : Word) : (s.setPc w).cause = s.cause := rfl
@[simp] theorem State.setPc_mem (w : Word) : (s.setPc w).mem = s.mem := rfl
@[simp] theorem State.setPc_continues (w : Word) : (s.setPc w).continues = s.continues := rfl
@[simp] theorem State.setPc_diag (w : Word) : (s.setPc w).diag = s.diag := rfl
@[simp] theorem State.setPc_free (w : Word) : (s.setPc w).free = s.free := rfl
@[simp] theorem State.setPc_getV (w : Word) (q' : Reg) : (s.setPc w).getV q' = s.getV q' := rfl
@[simp] theorem State.setPc_byteAt (w : Word) (a' : Nat) : (s.setPc w).byteAt a' = s.byteAt a' := rfl

@[simp] theorem State.setStk_v (l : List Word) : (s.setStk l).v = s.v := rfl
@[simp] theorem State.setStk_i (l : List Word) : (s.setStk l).i = s.i := rfl
@[simp] theorem State.setStk_pc (l : List Word) : (s.setStk l).pc = s.pc := rfl
@[simp] theorem State.setStk_stk (l : List Word) : (s.setStk l).stk = l := rfl
@[simp] theorem State.setStk_fb (l : List Word) : (s.setStk l).fb = s.fb := rfl
@[simp] theorem State.setStk_k (l : List Word) : (s.setStk l).k = s.k := rfl
@[simp] theorem State.setStk_dt (l : List Word) : (s.setStk l).dt = s.dt := rfl
@[simp] theorem State.setStk_st (l : List Word) : (s.setStk l).st = s.st := rfl
@[simp] theorem State.setStk_halt (l : List Word) : (s.setStk l).halt = s.halt := rfl
@[simp] theorem State.setStk_cause (l : List Word) : (s.setStk l).cause = s.cause := rfl
@[simp] theorem State.setStk_mem (l : List Word) : (s.setStk l).mem = s.mem := rfl
@[simp] theorem State.setStk_continues (l : List Word) : (s.setStk l).continues = s.continues := rfl
@[simp] theorem State.setStk_diag (l : List Word) : (s.setStk l).diag = s.diag := rfl
@[simp] theorem State.setStk_free (l : List Word) : (s.setStk l).free = s.free := rfl
@[simp] theorem State.setStk_getV (l : List Word) (q' : Reg) : (s.setStk l).getV q' = s.getV q' := rfl
@[simp] theorem State.setStk_byteAt (l : List Word) (a' : Nat) : (s.setStk l).byteAt a' = s.byteAt a' := rfl

@[simp] theorem State.setFb_v (d : Vector (Vector Bool 64) 32) : (s.setFb d).v = s.v := rfl
@[simp] theorem State.setFb_i (d : Vector (Vector Bool 64) 32) : (s.setFb d).i = s.i := rfl
@[simp] theorem State.setFb_pc (d : Vector (Vector Bool 64) 32) : (s.setFb d).pc = s.pc := rfl
@[simp] theorem State.setFb_stk (d : Vector (Vector Bool 64) 32) : (s.setFb d).stk = s.stk := rfl
@[simp] theorem State.setFb_fb (d : Vector (Vector Bool 64) 32) : (s.setFb d).fb = d := rfl
@[simp] theorem State.setFb_k (d : Vector (Vector Bool 64) 32) : (s.setFb d).k = s.k := rfl
@[simp] theorem State.setFb_dt (d : Vector (Vector Bool 64) 32) : (s.setFb d).dt = s.dt := rfl
@[simp] theorem State.setFb_st (d : Vector (Vector Bool 64) 32) : (s.setFb d).st = s.st := rfl
@[simp] theorem State.setFb_halt (d : Vector (Vector Bool 64) 32) : (s.setFb d).halt = s.halt := rfl
@[simp] theorem State.setFb_cause (d : Vector (Vector Bool 64) 32) : (s.setFb d).cause = s.cause := rfl
@[simp] theorem State.setFb_mem (d : Vector (Vector Bool 64) 32) : (s.setFb d).mem = s.mem := rfl
@[simp] theorem State.setFb_continues (d : Vector (Vector Bool 64) 32) : (s.setFb d).continues = s.continues := rfl
@[simp] theorem State.setFb_diag (d : Vector (Vector Bool 64) 32) : (s.setFb d).diag = s.diag := rfl
@[simp] theorem State.setFb_free (d : Vector (Vector Bool 64) 32) : (s.setFb d).free = s.free := rfl
@[simp] theorem State.setFb_getV (d : Vector (Vector Bool 64) 32) (q' : Reg) : (s.setFb d).getV q' = s.getV q' := rfl
@[simp] theorem State.setFb_byteAt (d : Vector (Vector Bool 64) 32) (a' : Nat) : (s.setFb d).byteAt a' = s.byteAt a' := rfl

@[simp] theorem State.setDt_v (b : Byte) : (s.setDt b).v = s.v := rfl
@[simp] theorem State.setDt_i (b : Byte) : (s.setDt b).i = s.i := rfl
@[simp] theorem State.setDt_pc (b : Byte) : (s.setDt b).pc = s.pc := rfl
@[simp] theorem State.setDt_stk (b : Byte) : (s.setDt b).stk = s.stk := rfl
@[simp] theorem State.setDt_fb (b : Byte) : (s.setDt b).fb = s.fb := rfl
@[simp] theorem State.setDt_k (b : Byte) : (s.setDt b).k = s.k := rfl
@[simp] theorem State.setDt_dt (b : Byte) : (s.setDt b).dt = b := rfl
@[simp] theorem State.setDt_st (b : Byte) : (s.setDt b).st = s.st := rfl
@[simp] theorem State.setDt_halt (b : Byte) : (s.setDt b).halt = s.halt := rfl
@[simp] theorem State.setDt_cause (b : Byte) : (s.setDt b).cause = s.cause := rfl
@[simp] theorem State.setDt_mem (b : Byte) : (s.setDt b).mem = s.mem := rfl
@[simp] theorem State.setDt_continues (b : Byte) : (s.setDt b).continues = s.continues := rfl
@[simp] theorem State.setDt_diag (b : Byte) : (s.setDt b).diag = s.diag := rfl
@[simp] theorem State.setDt_free (b : Byte) : (s.setDt b).free = s.free := rfl
@[simp] theorem State.setDt_getV (b : Byte) (q' : Reg) : (s.setDt b).getV q' = s.getV q' := rfl
@[simp] theorem State.setDt_byteAt (b : Byte) (a' : Nat) : (s.setDt b).byteAt a' = s.byteAt a' := rfl

@[simp] theorem State.setSt_v (b : Byte) : (s.setSt b).v = s.v := rfl
@[simp] theorem State.setSt_i (b : Byte) : (s.setSt b).i = s.i := rfl
@[simp] theorem State.setSt_pc (b : Byte) : (s.setSt b).pc = s.pc := rfl
@[simp] theorem State.setSt_stk (b : Byte) : (s.setSt b).stk = s.stk := rfl
@[simp] theorem State.setSt_fb (b : Byte) : (s.setSt b).fb = s.fb := rfl
@[simp] theorem State.setSt_k (b : Byte) : (s.setSt b).k = s.k := rfl
@[simp] theorem State.setSt_dt (b : Byte) : (s.setSt b).dt = s.dt := rfl
@[simp] theorem State.setSt_st (b : Byte) : (s.setSt b).st = b := rfl
@[simp] theorem State.setSt_halt (b : Byte) : (s.setSt b).halt = s.halt := rfl
@[simp] theorem State.setSt_cause (b : Byte) : (s.setSt b).cause = s.cause := rfl
@[simp] theorem State.setSt_mem (b : Byte) : (s.setSt b).mem = s.mem := rfl
@[simp] theorem State.setSt_continues (b : Byte) : (s.setSt b).continues = s.continues := rfl
@[simp] theorem State.setSt_diag (b : Byte) : (s.setSt b).diag = s.diag := rfl
@[simp] theorem State.setSt_free (b : Byte) : (s.setSt b).free = s.free := rfl
@[simp] theorem State.setSt_getV (b : Byte) (q' : Reg) : (s.setSt b).getV q' = s.getV q' := rfl
@[simp] theorem State.setSt_byteAt (b : Byte) (a' : Nat) : (s.setSt b).byteAt a' = s.byteAt a' := rfl

@[simp] theorem State.setMem_v (m : List Host.Cell) : (s.setMem m).v = s.v := rfl
@[simp] theorem State.setMem_i (m : List Host.Cell) : (s.setMem m).i = s.i := rfl
@[simp] theorem State.setMem_pc (m : List Host.Cell) : (s.setMem m).pc = s.pc := rfl
@[simp] theorem State.setMem_stk (m : List Host.Cell) : (s.setMem m).stk = s.stk := rfl
@[simp] theorem State.setMem_fb (m : List Host.Cell) : (s.setMem m).fb = s.fb := rfl
@[simp] theorem State.setMem_k (m : List Host.Cell) : (s.setMem m).k = s.k := rfl
@[simp] theorem State.setMem_dt (m : List Host.Cell) : (s.setMem m).dt = s.dt := rfl
@[simp] theorem State.setMem_st (m : List Host.Cell) : (s.setMem m).st = s.st := rfl
@[simp] theorem State.setMem_halt (m : List Host.Cell) : (s.setMem m).halt = s.halt := rfl
@[simp] theorem State.setMem_cause (m : List Host.Cell) : (s.setMem m).cause = s.cause := rfl
@[simp] theorem State.setMem_mem (m : List Host.Cell) : (s.setMem m).mem = m := rfl
@[simp] theorem State.setMem_continues (m : List Host.Cell) : (s.setMem m).continues = s.continues := rfl
@[simp] theorem State.setMem_diag (m : List Host.Cell) : (s.setMem m).diag = s.diag := rfl
@[simp] theorem State.setMem_free (m : List Host.Cell) : (s.setMem m).free = s.free := rfl
@[simp] theorem State.setMem_getV (m : List Host.Cell) (q' : Reg) : (s.setMem m).getV q' = s.getV q' := rfl

@[simp] theorem State.setDiag_v (d : Diag) : (s.setDiag d).v = s.v := rfl
@[simp] theorem State.setDiag_i (d : Diag) : (s.setDiag d).i = s.i := rfl
@[simp] theorem State.setDiag_pc (d : Diag) : (s.setDiag d).pc = s.pc := rfl
@[simp] theorem State.setDiag_stk (d : Diag) : (s.setDiag d).stk = s.stk := rfl
@[simp] theorem State.setDiag_fb (d : Diag) : (s.setDiag d).fb = s.fb := rfl
@[simp] theorem State.setDiag_k (d : Diag) : (s.setDiag d).k = s.k := rfl
@[simp] theorem State.setDiag_dt (d : Diag) : (s.setDiag d).dt = s.dt := rfl
@[simp] theorem State.setDiag_st (d : Diag) : (s.setDiag d).st = s.st := rfl
@[simp] theorem State.setDiag_halt (d : Diag) : (s.setDiag d).halt = s.halt := rfl
@[simp] theorem State.setDiag_cause (d : Diag) : (s.setDiag d).cause = s.cause := rfl
@[simp] theorem State.setDiag_mem (d : Diag) : (s.setDiag d).mem = s.mem := rfl
@[simp] theorem State.setDiag_continues (d : Diag) : (s.setDiag d).continues = s.continues := rfl
@[simp] theorem State.setDiag_diag (d : Diag) : (s.setDiag d).diag = d := rfl
@[simp] theorem State.setDiag_free (d : Diag) : (s.setDiag d).free = s.free := rfl
@[simp] theorem State.setDiag_getV (d : Diag) (q' : Reg) : (s.setDiag d).getV q' = s.getV q' := rfl
@[simp] theorem State.setDiag_byteAt (d : Diag) (a' : Nat) : (s.setDiag d).byteAt a' = s.byteAt a' := rfl

@[simp] theorem State.setK_v (q : Key) (b : Bool) : (s.setK q b).v = s.v := rfl
@[simp] theorem State.setK_i (q : Key) (b : Bool) : (s.setK q b).i = s.i := rfl
@[simp] theorem State.setK_pc (q : Key) (b : Bool) : (s.setK q b).pc = s.pc := rfl
@[simp] theorem State.setK_stk (q : Key) (b : Bool) : (s.setK q b).stk = s.stk := rfl
@[simp] theorem State.setK_fb (q : Key) (b : Bool) : (s.setK q b).fb = s.fb := rfl
@[simp] theorem State.setK_k (q : Key) (b : Bool) : (s.setK q b).k = s.k.set q b := rfl
@[simp] theorem State.setK_dt (q : Key) (b : Bool) : (s.setK q b).dt = s.dt := rfl
@[simp] theorem State.setK_st (q : Key) (b : Bool) : (s.setK q b).st = s.st := rfl
@[simp] theorem State.setK_halt (q : Key) (b : Bool) : (s.setK q b).halt = s.halt := rfl
@[simp] theorem State.setK_cause (q : Key) (b : Bool) : (s.setK q b).cause = s.cause := rfl
@[simp] theorem State.setK_mem (q : Key) (b : Bool) : (s.setK q b).mem = s.mem := rfl
@[simp] theorem State.setK_continues (q : Key) (b : Bool) : (s.setK q b).continues = s.continues := rfl
@[simp] theorem State.setK_diag (q : Key) (b : Bool) : (s.setK q b).diag = s.diag := rfl
@[simp] theorem State.setK_free (q : Key) (b : Bool) : (s.setK q b).free = s.free := rfl
@[simp] theorem State.setK_getV (q : Key) (b : Bool) (q' : Reg) : (s.setK q b).getV q' = s.getV q' := rfl
@[simp] theorem State.setK_byteAt (q : Key) (b : Bool) (a' : Nat) : (s.setK q b).byteAt a' = s.byteAt a' := rfl

@[simp] theorem State.drew_v (n : Nat) : (s.drew n).v = s.v := rfl
@[simp] theorem State.drew_i (n : Nat) : (s.drew n).i = s.i := rfl
@[simp] theorem State.drew_pc (n : Nat) : (s.drew n).pc = s.pc := rfl
@[simp] theorem State.drew_stk (n : Nat) : (s.drew n).stk = s.stk := rfl
@[simp] theorem State.drew_fb (n : Nat) : (s.drew n).fb = s.fb := rfl
@[simp] theorem State.drew_k (n : Nat) : (s.drew n).k = s.k := rfl
@[simp] theorem State.drew_dt (n : Nat) : (s.drew n).dt = s.dt := rfl
@[simp] theorem State.drew_st (n : Nat) : (s.drew n).st = s.st := rfl
@[simp] theorem State.drew_halt (n : Nat) : (s.drew n).halt = s.halt := rfl
@[simp] theorem State.drew_cause (n : Nat) : (s.drew n).cause = s.cause := rfl
@[simp] theorem State.drew_mem (n : Nat) : (s.drew n).mem = s.mem := rfl
@[simp] theorem State.drew_continues (n : Nat) : (s.drew n).continues = s.continues := rfl
@[simp] theorem State.drew_diag (n : Nat) : (s.drew n).diag = s.diag := rfl
@[simp] theorem State.drew_free (n : Nat) : (s.drew n).free = s.free + n := rfl
@[simp] theorem State.drew_getV (n : Nat) (q' : Reg) : (s.drew n).getV q' = s.getV q' := rfl
@[simp] theorem State.drew_byteAt (n : Nat) (a' : Nat) : (s.drew n).byteAt a' = s.byteAt a' := rfl

@[simp] theorem State.setByte_v (a : Nat) (b : Byte) : (s.setByte a b).v = s.v := rfl
@[simp] theorem State.setByte_i (a : Nat) (b : Byte) : (s.setByte a b).i = s.i := rfl
@[simp] theorem State.setByte_pc (a : Nat) (b : Byte) : (s.setByte a b).pc = s.pc := rfl
@[simp] theorem State.setByte_stk (a : Nat) (b : Byte) : (s.setByte a b).stk = s.stk := rfl
@[simp] theorem State.setByte_fb (a : Nat) (b : Byte) : (s.setByte a b).fb = s.fb := rfl
@[simp] theorem State.setByte_k (a : Nat) (b : Byte) : (s.setByte a b).k = s.k := rfl
@[simp] theorem State.setByte_dt (a : Nat) (b : Byte) : (s.setByte a b).dt = s.dt := rfl
@[simp] theorem State.setByte_st (a : Nat) (b : Byte) : (s.setByte a b).st = s.st := rfl
@[simp] theorem State.setByte_halt (a : Nat) (b : Byte) : (s.setByte a b).halt = s.halt := rfl
@[simp] theorem State.setByte_cause (a : Nat) (b : Byte) : (s.setByte a b).cause = s.cause := rfl
@[simp] theorem State.setByte_mem (a : Nat) (b : Byte) : (s.setByte a b).mem = memPut s.mem a b := rfl
@[simp] theorem State.setByte_continues (a : Nat) (b : Byte) : (s.setByte a b).continues = s.continues := rfl
@[simp] theorem State.setByte_diag (a : Nat) (b : Byte) : (s.setByte a b).diag = s.diag := rfl
@[simp] theorem State.setByte_free (a : Nat) (b : Byte) : (s.setByte a b).free = s.free := rfl
@[simp] theorem State.setByte_getV (a : Nat) (b : Byte) (q' : Reg) : (s.setByte a b).getV q' = s.getV q' := rfl

@[simp] theorem State.next_v : (s.next).v = s.v := rfl
@[simp] theorem State.next_i : (s.next).i = s.i := rfl
@[simp] theorem State.next_pc : (s.next).pc = s.pc + 2 := rfl
@[simp] theorem State.next_stk : (s.next).stk = s.stk := rfl
@[simp] theorem State.next_fb : (s.next).fb = s.fb := rfl
@[simp] theorem State.next_k : (s.next).k = s.k := rfl
@[simp] theorem State.next_dt : (s.next).dt = s.dt := rfl
@[simp] theorem State.next_st : (s.next).st = s.st := rfl
@[simp] theorem State.next_halt : (s.next).halt = s.halt := rfl
@[simp] theorem State.next_cause : (s.next).cause = s.cause := rfl
@[simp] theorem State.next_mem : (s.next).mem = s.mem := rfl
@[simp] theorem State.next_continues : (s.next).continues = s.continues := rfl
@[simp] theorem State.next_diag : (s.next).diag = s.diag := rfl
@[simp] theorem State.next_free : (s.next).free = s.free := rfl
@[simp] theorem State.next_getV (q' : Reg) : (s.next).getV q' = s.getV q' := rfl
@[simp] theorem State.next_byteAt (a' : Nat) : (s.next).byteAt a' = s.byteAt a' := rfl

@[simp] theorem State.skip_v : (s.skip).v = s.v := rfl
@[simp] theorem State.skip_i : (s.skip).i = s.i := rfl
@[simp] theorem State.skip_pc : (s.skip).pc = s.pc + 4 := rfl
@[simp] theorem State.skip_stk : (s.skip).stk = s.stk := rfl
@[simp] theorem State.skip_fb : (s.skip).fb = s.fb := rfl
@[simp] theorem State.skip_k : (s.skip).k = s.k := rfl
@[simp] theorem State.skip_dt : (s.skip).dt = s.dt := rfl
@[simp] theorem State.skip_st : (s.skip).st = s.st := rfl
@[simp] theorem State.skip_halt : (s.skip).halt = s.halt := rfl
@[simp] theorem State.skip_cause : (s.skip).cause = s.cause := rfl
@[simp] theorem State.skip_mem : (s.skip).mem = s.mem := rfl
@[simp] theorem State.skip_continues : (s.skip).continues = s.continues := rfl
@[simp] theorem State.skip_diag : (s.skip).diag = s.diag := rfl
@[simp] theorem State.skip_free : (s.skip).free = s.free := rfl
@[simp] theorem State.skip_getV (q' : Reg) : (s.skip).getV q' = s.getV q' := rfl
@[simp] theorem State.skip_byteAt (a' : Nat) : (s.skip).byteAt a' = s.byteAt a' := rfl

@[simp] theorem State.beginStep_v : (s.beginStep).v = s.v := rfl
@[simp] theorem State.beginStep_i : (s.beginStep).i = s.i := rfl
@[simp] theorem State.beginStep_pc : (s.beginStep).pc = s.pc := rfl
@[simp] theorem State.beginStep_stk : (s.beginStep).stk = s.stk := rfl
@[simp] theorem State.beginStep_fb : (s.beginStep).fb = s.fb := rfl
@[simp] theorem State.beginStep_k : (s.beginStep).k = s.k := rfl
@[simp] theorem State.beginStep_dt : (s.beginStep).dt = s.dt := rfl
@[simp] theorem State.beginStep_st : (s.beginStep).st = s.st := rfl
@[simp] theorem State.beginStep_halt : (s.beginStep).halt = s.halt := rfl
@[simp] theorem State.beginStep_cause : (s.beginStep).cause = s.cause := rfl
@[simp] theorem State.beginStep_mem : (s.beginStep).mem = s.mem := rfl
@[simp] theorem State.beginStep_continues : (s.beginStep).continues = true := rfl
@[simp] theorem State.beginStep_diag : (s.beginStep).diag = Diag.none := rfl
@[simp] theorem State.beginStep_free : (s.beginStep).free = s.free := rfl
@[simp] theorem State.beginStep_getV (q' : Reg) : (s.beginStep).getV q' = s.getV q' := rfl
@[simp] theorem State.beginStep_byteAt (a' : Nat) : (s.beginStep).byteAt a' = s.byteAt a' := rfl

@[simp] theorem State.stayHalted_v : (s.stayHalted).v = s.v := rfl
@[simp] theorem State.stayHalted_i : (s.stayHalted).i = s.i := rfl
@[simp] theorem State.stayHalted_pc : (s.stayHalted).pc = s.pc := rfl
@[simp] theorem State.stayHalted_stk : (s.stayHalted).stk = s.stk := rfl
@[simp] theorem State.stayHalted_fb : (s.stayHalted).fb = s.fb := rfl
@[simp] theorem State.stayHalted_k : (s.stayHalted).k = s.k := rfl
@[simp] theorem State.stayHalted_dt : (s.stayHalted).dt = s.dt := rfl
@[simp] theorem State.stayHalted_st : (s.stayHalted).st = s.st := rfl
@[simp] theorem State.stayHalted_halt : (s.stayHalted).halt = s.halt := rfl
@[simp] theorem State.stayHalted_cause : (s.stayHalted).cause = s.cause := rfl
@[simp] theorem State.stayHalted_mem : (s.stayHalted).mem = s.mem := rfl
@[simp] theorem State.stayHalted_continues : (s.stayHalted).continues = false := rfl
@[simp] theorem State.stayHalted_diag : (s.stayHalted).diag = Diag.none := rfl
@[simp] theorem State.stayHalted_free : (s.stayHalted).free = s.free := rfl
@[simp] theorem State.stayHalted_getV (q' : Reg) : (s.stayHalted).getV q' = s.getV q' := rfl
@[simp] theorem State.stayHalted_byteAt (a' : Nat) : (s.stayHalted).byteAt a' = s.byteAt a' := rfl

@[simp] theorem raiseFatal_v (c : Cause) : (raiseFatal c s).v = s.v := rfl
@[simp] theorem raiseFatal_i (c : Cause) : (raiseFatal c s).i = s.i := rfl
@[simp] theorem raiseFatal_pc (c : Cause) : (raiseFatal c s).pc = s.pc := rfl
@[simp] theorem raiseFatal_stk (c : Cause) : (raiseFatal c s).stk = s.stk := rfl
@[simp] theorem raiseFatal_fb (c : Cause) : (raiseFatal c s).fb = s.fb := rfl
@[simp] theorem raiseFatal_k (c : Cause) : (raiseFatal c s).k = s.k := rfl
@[simp] theorem raiseFatal_dt (c : Cause) : (raiseFatal c s).dt = s.dt := rfl
@[simp] theorem raiseFatal_st (c : Cause) : (raiseFatal c s).st = s.st := rfl
@[simp] theorem raiseFatal_halt (c : Cause) : (raiseFatal c s).halt = true := rfl
@[simp] theorem raiseFatal_cause (c : Cause) : (raiseFatal c s).cause = c := rfl
@[simp] theorem raiseFatal_mem (c : Cause) : (raiseFatal c s).mem = s.mem := rfl
@[simp] theorem raiseFatal_continues (c : Cause) : (raiseFatal c s).continues = false := rfl
@[simp] theorem raiseFatal_diag (c : Cause) : (raiseFatal c s).diag = s.diag := rfl
@[simp] theorem raiseFatal_free (c : Cause) : (raiseFatal c s).free = s.free := rfl
@[simp] theorem raiseFatal_getV (c : Cause) (q' : Reg) : (raiseFatal c s).getV q' = s.getV q' := rfl
@[simp] theorem raiseFatal_byteAt (c : Cause) (a' : Nat) : (raiseFatal c s).byteAt a' = s.byteAt a' := rfl

@[simp] theorem raiseDataAddress_v (a : Nat) : (raiseDataAddress a s).v = s.v := rfl
@[simp] theorem raiseDataAddress_i (a : Nat) : (raiseDataAddress a s).i = s.i := rfl
@[simp] theorem raiseDataAddress_pc (a : Nat) : (raiseDataAddress a s).pc = s.pc := rfl
@[simp] theorem raiseDataAddress_stk (a : Nat) : (raiseDataAddress a s).stk = s.stk := rfl
@[simp] theorem raiseDataAddress_fb (a : Nat) : (raiseDataAddress a s).fb = s.fb := rfl
@[simp] theorem raiseDataAddress_k (a : Nat) : (raiseDataAddress a s).k = s.k := rfl
@[simp] theorem raiseDataAddress_dt (a : Nat) : (raiseDataAddress a s).dt = s.dt := rfl
@[simp] theorem raiseDataAddress_st (a : Nat) : (raiseDataAddress a s).st = s.st := rfl
@[simp] theorem raiseDataAddress_halt (a : Nat) : (raiseDataAddress a s).halt = true := rfl
@[simp] theorem raiseDataAddress_cause (a : Nat) : (raiseDataAddress a s).cause = Cause.dataAddressFault (BitVec.ofNat 16 a) := rfl
@[simp] theorem raiseDataAddress_mem (a : Nat) : (raiseDataAddress a s).mem = s.mem := rfl
@[simp] theorem raiseDataAddress_continues (a : Nat) : (raiseDataAddress a s).continues = false := rfl
@[simp] theorem raiseDataAddress_diag (a : Nat) : (raiseDataAddress a s).diag = s.diag := rfl
@[simp] theorem raiseDataAddress_free (a : Nat) : (raiseDataAddress a s).free = s.free := rfl
@[simp] theorem raiseDataAddress_getV (a : Nat) (q' : Reg) : (raiseDataAddress a s).getV q' = s.getV q' := rfl
@[simp] theorem raiseDataAddress_byteAt (a : Nat) (a' : Nat) : (raiseDataAddress a s).byteAt a' = s.byteAt a' := rfl

@[simp] theorem raiseFetch_v : (raiseFetch s).v = s.v := rfl
@[simp] theorem raiseFetch_i : (raiseFetch s).i = s.i := rfl
@[simp] theorem raiseFetch_pc : (raiseFetch s).pc = s.pc := rfl
@[simp] theorem raiseFetch_stk : (raiseFetch s).stk = s.stk := rfl
@[simp] theorem raiseFetch_fb : (raiseFetch s).fb = s.fb := rfl
@[simp] theorem raiseFetch_k : (raiseFetch s).k = s.k := rfl
@[simp] theorem raiseFetch_dt : (raiseFetch s).dt = s.dt := rfl
@[simp] theorem raiseFetch_st : (raiseFetch s).st = s.st := rfl
@[simp] theorem raiseFetch_halt : (raiseFetch s).halt = true := rfl
@[simp] theorem raiseFetch_cause : (raiseFetch s).cause = Cause.fetchFault s.pc := rfl
@[simp] theorem raiseFetch_mem : (raiseFetch s).mem = s.mem := rfl
@[simp] theorem raiseFetch_continues : (raiseFetch s).continues = false := rfl
@[simp] theorem raiseFetch_diag : (raiseFetch s).diag = Diag.none := rfl
@[simp] theorem raiseFetch_free : (raiseFetch s).free = s.free := rfl
@[simp] theorem raiseFetch_getV (q' : Reg) : (raiseFetch s).getV q' = s.getV q' := rfl
@[simp] theorem raiseFetch_byteAt (a' : Nat) : (raiseFetch s).byteAt a' = s.byteAt a' := rfl

@[simp] theorem push_v (w : Word) : (push w s).v = s.v := rfl
@[simp] theorem push_i (w : Word) : (push w s).i = s.i := rfl
@[simp] theorem push_pc (w : Word) : (push w s).pc = s.pc := rfl
@[simp] theorem push_stk (w : Word) : (push w s).stk = s.stk ++ [w] := rfl
@[simp] theorem push_fb (w : Word) : (push w s).fb = s.fb := rfl
@[simp] theorem push_k (w : Word) : (push w s).k = s.k := rfl
@[simp] theorem push_dt (w : Word) : (push w s).dt = s.dt := rfl
@[simp] theorem push_st (w : Word) : (push w s).st = s.st := rfl
@[simp] theorem push_halt (w : Word) : (push w s).halt = s.halt := rfl
@[simp] theorem push_cause (w : Word) : (push w s).cause = s.cause := rfl
@[simp] theorem push_mem (w : Word) : (push w s).mem = s.mem := rfl
@[simp] theorem push_continues (w : Word) : (push w s).continues = s.continues := rfl
@[simp] theorem push_diag (w : Word) : (push w s).diag = s.diag := rfl
@[simp] theorem push_free (w : Word) : (push w s).free = s.free := rfl
@[simp] theorem push_getV (w : Word) (q' : Reg) : (push w s).getV q' = s.getV q' := rfl
@[simp] theorem push_byteAt (w : Word) (a' : Nat) : (push w s).byteAt a' = s.byteAt a' := rfl

@[simp] theorem State.setV_getV_same (r : Reg) (b : Byte) : (s.setV r b).getV r = b := by
  simp [State.getV]

/-- A register write reads back, and leaves every other register alone. -/
theorem State.setV_getV (r : Reg) (b : Byte) (q : Reg) : (s.setV r b).getV q = if q = r then b else s.getV q := by
  rcases eq_or_ne q r with rfl | h
  · simp
  · have : r.val ≠ q.val := fun e => h (Fin.ext e.symm)
    simp [State.getV, h, this]

theorem State.setV_getV_ne (r : Reg) (b : Byte) (q : Reg) (h : q ≠ r) : (s.setV r b).getV q = s.getV q := by
  rw [State.setV_getV, if_neg h]

/-- Two states with the same fields, registers read through the accessor, are the same state. -/
theorem State.v_ext {v w : Vector Byte 16} (h : ∀ r : Reg, v[r] = w[r]) : v = w := by
  ext j hj : 1
  exact h ⟨j, hj⟩

end Sys2Proof.Machine
end

