-- ==== Sys2Proof/Laws/Display.lean ====
section
/-! SUPPORT. The blit loop as a run of flips over a list of cells that has no repeats (spec 44_display.md R181 to
R183). -/

namespace Sys2Proof.Machine

/-- The cells a sprite byte's 1 bits land on, in the order of the loop. -/
def byteTargets (vx vy : Byte) (row : Nat) (b : Byte) : List (Fin 32 × Fin 64) :=
  ([0, 1, 2, 3, 4, 5, 6, 7].filter fun bit => b.getLsbD (7 - bit)).map fun bit =>
    (blitRow vy row, blitColumn vx bit)

/-- The cells a sprite's 1 bits land on, rows from `row` up. -/
def spriteTargets (vx vy : Byte) (row : Nat) (sprite : List Byte) : List (Fin 32 × Fin 64) :=
  match sprite with
  | [] => []
  | b :: bs => byteTargets vx vy row b ++ spriteTargets vx vy (row + 1) bs

/-- Flip a list of cells one after another. -/
def flipAll (l : List (Fin 32 × Fin 64)) (d : Blit) : Blit := l.foldl (fun d p => flipCell p.1 p.2 d) d

theorem flipCell_cell (r : Fin 32) (c : Fin 64) (d : Blit) (r' : Fin 32) (c' : Fin 64) :
    (flipCell r c d).fb[r'][c'] = if (r', c') = (r, c) then !d.fb[r'][c'] else d.fb[r'][c'] := by
  by_cases hr : r' = r
  · subst hr
    by_cases hc : c' = c
    · subst hc; simp [flipCell]
    · have : c.val ≠ c'.val := fun e => hc (Fin.ext e.symm)
      simp [flipCell, hc, this]
  · have : r.val ≠ r'.val := fun e => hr (Fin.ext e.symm)
    simp [flipCell, hr, this]

/-- Flipping cells that do not repeat flips exactly those, and records whether one of them was lit. -/
theorem flipAll_spec {l : List (Fin 32 × Fin 64)} (hl : l.Nodup) (d : Blit) :
    (∀ (r : Fin 32) (c : Fin 64),
      (flipAll l d).fb[r][c] = if (r, c) ∈ l then !d.fb[r][c] else d.fb[r][c]) ∧
    ((flipAll l d).collision = true ↔ d.collision = true ∨ ∃ p ∈ l, d.fb[p.1][p.2] = true) := by
  induction l generalizing d with
  | nil => simp [flipAll]
  | cons p l ih =>
    obtain ⟨r0, c0⟩ := p
    obtain ⟨hp, hl⟩ := List.nodup_cons.1 hl
    obtain ⟨h1, h2⟩ := ih hl (flipCell r0 c0 d)
    have e : flipAll ((r0, c0) :: l) d = flipAll l (flipCell r0 c0 d) := rfl
    rw [e]
    refine ⟨fun r c => ?_, ?_⟩
    · rw [h1, flipCell_cell]
      by_cases hm : (r, c) ∈ l
      · have hne : (r, c) ≠ (r0, c0) := fun h => hp (h ▸ hm)
        simp [hm, hne]
      · by_cases he : (r, c) = (r0, c0)
        · simp [he, hp]
        · simp [hm, he]
    · rw [h2]
      have hc : (flipCell r0 c0 d).collision = (d.collision || d.fb[r0][c0]) := rfl
      have hx : (∃ p ∈ l, (flipCell r0 c0 d).fb[p.1][p.2] = true) ↔ ∃ p ∈ l, d.fb[p.1][p.2] = true := by
        constructor <;> rintro ⟨⟨r, c⟩, hm, h⟩ <;> refine ⟨⟨r, c⟩, hm, ?_⟩
        · rwa [flipCell_cell, if_neg (ne_of_mem_of_not_mem hm hp)] at h
        · rwa [flipCell_cell, if_neg (ne_of_mem_of_not_mem hm hp)]
      rw [hc, hx]
      simp [or_assoc]

theorem blitByte_eq (vx vy : Byte) (row : Nat) (b : Byte) (d : Blit) :
    blitByte vx vy row b d = flipAll (byteTargets vx vy row b) d := by
  unfold blitByte byteTargets flipAll
  generalize [0, 1, 2, 3, 4, 5, 6, 7] = l
  induction l generalizing d with
  | nil => rfl
  | cons k l ih =>
    rw [List.foldl_cons, ih]
    by_cases h : b.getLsbD (7 - k) = true
    · rw [List.filter_cons_of_pos (by simpa using h), List.map_cons, List.foldl_cons]
      simp [blitBit, h]
    · rw [List.filter_cons_of_neg (by simpa using h)]
      simp [blitBit, h]

/-- R181's loop is a run of flips over the sprite's target cells. -/
theorem blitRows_eq (vx vy : Byte) (row : Nat) (sprite : List Byte) (d : Blit) :
    blitRows vx vy row sprite d = flipAll (spriteTargets vx vy row sprite) d := by
  induction sprite generalizing row d with
  | nil => rfl
  | cons b bs ih =>
    rw [blitRows, ih, blitByte_eq, spriteTargets]
    simp [flipAll]

theorem mem_byteTargets (vx vy : Byte) (row : Nat) (b : Byte) (r : Fin 32) (c : Fin 64) :
    (r, c) ∈ byteTargets vx vy row b ↔
      ∃ bit < 8, b.getLsbD (7 - bit) = true ∧ r.val = (vy.toNat + row) % 32 ∧ c.val = (vx.toNat + bit) % 64 := by
  simp only [byteTargets, List.mem_map, List.mem_filter, Prod.mk.injEq]
  constructor
  · rintro ⟨bit, ⟨hm, hb⟩, rfl, rfl⟩
    refine ⟨bit, ?_, hb, rfl, rfl⟩
    simp only [List.mem_cons, List.not_mem_nil, or_false] at hm
    omega
  · rintro ⟨bit, h8, hb, hr, hc⟩
    refine ⟨bit, ⟨?_, hb⟩, Fin.ext hr.symm, Fin.ext hc.symm⟩
    simp only [List.mem_cons, List.not_mem_nil, or_false]
    omega

theorem mem_spriteTargets (vx vy : Byte) (row : Nat) (sprite : List Byte) (r : Fin 32) (c : Fin 64) :
    (r, c) ∈ spriteTargets vx vy row sprite ↔
      ∃ j bit : Nat, j < sprite.length ∧ bit < 8 ∧ (sprite.getD j 0).getLsbD (7 - bit) = true ∧
        r.val = (vy.toNat + (row + j)) % 32 ∧ c.val = (vx.toNat + bit) % 64 := by
  induction sprite generalizing row with
  | nil => simp [spriteTargets]
  | cons b bs ih =>
    rw [spriteTargets, List.mem_append, mem_byteTargets, ih]
    constructor
    · rintro (⟨bit, h8, hb, hr, hc⟩ | ⟨j, bit, hj, h8, hb, hr, hc⟩)
      · exact ⟨0, bit, by simp, h8, by simpa using hb, by simpa using hr, hc⟩
      · refine ⟨j + 1, bit, by simpa using hj, h8, by simpa using hb, ?_, hc⟩
        rw [hr]; congr 2; omega
    · rintro ⟨j, bit, hj, h8, hb, hr, hc⟩
      cases j with
      | zero => exact .inl ⟨bit, h8, by simpa using hb, by simpa using hr, hc⟩
      | succ j =>
        refine .inr ⟨j, bit, by simpa using hj, h8, by simpa using hb, ?_, hc⟩
        rw [hr]; congr 2; omega

/-- The target cells are the cells the sprite covers (R181). -/
theorem mem_spriteTargets_iff_covers (vx vy : Byte) (sprite : List Byte) (r : Fin 32) (c : Fin 64) :
    (r, c) ∈ spriteTargets vx vy 0 sprite ↔ spriteCovers vx vy sprite r c := by
  rw [mem_spriteTargets]
  simp only [Nat.zero_add, spriteCovers]

theorem byteTargets_nodup (vx vy : Byte) (row : Nat) (b : Byte) : (byteTargets vx vy row b).Nodup := by
  refine (List.Nodup.filter _ (by decide)).map_on ?_
  intro a ha b hb h
  have ha := (List.mem_filter.1 ha).1
  have hb := (List.mem_filter.1 hb).1
  simp only [List.mem_cons, List.not_mem_nil, or_false] at ha hb
  have := congrArg (fun p : Fin 32 × Fin 64 => p.2.val) h
  simp only [blitColumn] at this
  omega

/-- R183: 15 rows and 8 columns are distinct modulo 32 and 64, so no cell is a target twice. -/
theorem spriteTargets_nodup (vx vy : Byte) (row : Nat) (sprite : List Byte) (h : sprite.length ≤ 32) :
    (spriteTargets vx vy row sprite).Nodup := by
  induction sprite generalizing row with
  | nil => simp [spriteTargets]
  | cons b bs ih =>
    simp only [List.length_cons] at h
    rw [spriteTargets, List.nodup_append]
    refine ⟨byteTargets_nodup .., ih _ (by omega), ?_⟩
    rintro ⟨r, c⟩ h1 ⟨r', c'⟩ h2 he
    cases he
    obtain ⟨_, _, _, hr, _⟩ := (mem_byteTargets ..).1 h1
    obtain ⟨j, _, hj, _, _, hr', _⟩ := (mem_spriteTargets ..).1 h2
    omega

end Sys2Proof.Machine
end

