-- ==== Sys2Proof/Laws/Memory.lean ====
section
/-! SUPPORT. Memory: a read after a write, and the canonical form, which every memory operation keeps (spec
20_memory.md R63). -/

namespace Sys2Proof.Machine

theorem memGet_memCons (a : Nat) (b : Byte) (rest : List Host.Cell) (c : Nat)
    (h : ∀ p ∈ rest, a < p.1) : memGet (memCons a b rest) c = if c = a then b else memGet rest c := by
  have below : ∀ l : List Host.Cell, (∀ p ∈ l, a < p.1) → memGet l a = initialByte a := by
    intro l
    induction l with
    | nil => intro _; rfl
    | cons p l ih =>
      intro hl
      have hp := hl p (by simp)
      rw [memGet, if_neg (by omega), ih fun q hq => hl q (by simp [hq])]
  unfold memCons
  by_cases hb : b = initialByte a
  · rw [if_pos hb]
    by_cases hc : c = a
    · subst hc; rw [if_pos rfl, below rest h, hb]
    · rw [if_neg hc]
  · rw [if_neg hb, memGet]
    by_cases hc : c = a
    · subst hc; simp
    · rw [if_neg (Ne.symm hc), if_neg hc]

/-- Every address of a canonical memory is at least the bound it is canonical from. -/
theorem le_of_mem_wf {lo : Nat} {m : List Host.Cell} (h : memWfFrom lo m = true) : ∀ p ∈ m, lo ≤ p.1 := by
  induction m generalizing lo with
  | nil => simp
  | cons q m ih =>
    simp only [memWfFrom, Bool.and_eq_true, decide_eq_true_eq] at h
    intro p hp
    rcases List.mem_cons.1 hp with rfl | hp
    · exact h.1.1.1
    · exact le_trans (by omega) (ih h.2 p hp)

/-- A write reads back, and leaves every other address alone. -/
theorem memGet_memPut {lo : Nat} {m : List Host.Cell} (h : memWfFrom lo m = true) (a : Nat) (b : Byte) (c : Nat) :
    memGet (memPut m a b) c = if c = a then b else memGet m c := by
  induction m generalizing lo with
  | nil => exact memGet_memCons a b [] c (by simp)
  | cons q m ih =>
    obtain ⟨a', b'⟩ := q
    simp only [memWfFrom, Bool.and_eq_true, decide_eq_true_eq] at h
    have up := le_of_mem_wf h.2
    rw [memPut]
    by_cases h1 : a < a'
    · rw [if_pos h1]
      refine memGet_memCons a b _ c fun p hp => ?_
      rcases List.mem_cons.1 hp with rfl | hp
      · exact h1
      · have := up p hp; omega
    rw [if_neg h1]
    by_cases h2 : a = a'
    · subst h2
      rw [if_pos rfl, memGet_memCons a b m c fun p hp => by have := up p hp; omega]
      by_cases hc : c = a
      · simp [hc]
      · simp [memGet, hc, Ne.symm hc]
    · rw [if_neg h2, memGet, memGet, ih h.2]
      by_cases hc : c = a
      · subst hc; simp [Ne.symm h2]
      · simp [hc]

theorem memWfFrom_mono {lo lo' : Nat} {m : List Host.Cell} (h : memWfFrom lo m = true) (hle : lo' ≤ lo) :
    memWfFrom lo' m = true := by
  cases m with
  | nil => rfl
  | cons q m =>
    simp only [memWfFrom, Bool.and_eq_true, decide_eq_true_eq] at h ⊢
    exact ⟨⟨⟨by omega, h.1.1.2⟩, h.1.2⟩, h.2⟩

theorem memCons_wf {lo a : Nat} {b : Byte} {rest : List Host.Cell} (hlo : lo ≤ a) (ha : a < 4096)
    (h : memWfFrom (a + 1) rest = true) : memWfFrom lo (memCons a b rest) = true := by
  unfold memCons
  split_ifs with hb
  · exact memWfFrom_mono h (by omega)
  · simp [memWfFrom, hlo, ha, hb, h]

/-- A write to an address of the space keeps the canonical form. -/
theorem memPut_wf {lo a : Nat} {m : List Host.Cell} (h : memWfFrom lo m = true) (hlo : lo ≤ a) (ha : a < 4096)
    (b : Byte) : memWfFrom lo (memPut m a b) = true := by
  induction m generalizing lo with
  | nil => exact memCons_wf hlo ha rfl
  | cons q m ih =>
    obtain ⟨a', b'⟩ := q
    have h' := h
    simp only [memWfFrom, Bool.and_eq_true, decide_eq_true_eq] at h'
    unfold memPut
    split_ifs with h1 h2
    · exact memCons_wf hlo ha (by
        simp only [memWfFrom, Bool.and_eq_true, decide_eq_true_eq]
        exact ⟨⟨⟨by omega, h'.1.1.2⟩, h'.1.2⟩, h'.2⟩)
    · subst h2; exact memCons_wf hlo ha h'.2
    · simp only [memWfFrom, Bool.and_eq_true, decide_eq_true_eq]
      exact ⟨⟨⟨h'.1.1.1, h'.1.1.2⟩, h'.1.2⟩, ih h'.2 (by omega)⟩

theorem reset_memory_wf : Memory.wf State.reset.mem = true := rfl

/-- A byte of the state reads back, and every other byte is as before. -/
theorem State.setByte_byteAt {s : State} (h : Memory.wf s.mem = true) (a : Nat) (b : Byte) (c : Nat) :
    (s.setByte a b).byteAt c = if c = a then b else s.byteAt c := memGet_memPut h a b c

theorem State.setByte_wf {s : State} (h : Memory.wf s.mem = true) {a : Nat} (ha : a < 4096) (b : Byte) :
    Memory.wf (s.setByte a b).mem = true := memPut_wf h (Nat.zero_le a) ha b

end Sys2Proof.Machine
end

