-- ==== Sys2Proof/Laws/Ops.lean ====
section
/-! SUPPORT. For each shared operation, one lemma that says everything it can do; callers cite it and do not unfold
the operation. -/

namespace Sys2Proof.Machine

/-! Reads of a run of bytes (R66). -/

/-- A run of bytes in range reads as the bytes there. -/
theorem readBytes_ok {a n : Nat} {s : State} (h : n = 0 ∨ a + n ≤ 4096) :
    readBytes a n s = .ok ((List.range n).map fun j => s.byteAt (a + j)) := by
  induction n generalizing a with
  | zero => rfl
  | succ n ih =>
    have h' : a < Config.hw.memSize := by simp; omega
    have h2 : n = 0 ∨ a + 1 + n ≤ 4096 := by omega
    simp only [readBytes, memRead, if_pos h', ih h2, List.range_succ_eq_map, List.map_cons, List.map_map]
    congr 2
    apply List.map_congr_left
    intro j _
    simp only [Function.comp]
    congr 1
    omega

/-- A run of bytes that leaves the space stops at the first address out of range (R202). -/
theorem readBytes_error {a n : Nat} {s : State} (h0 : n ≠ 0) (h : 4096 < a + n) :
    readBytes a n s = .error (max a 4096) := by
  induction n generalizing a with
  | zero => exact absurd rfl h0
  | succ n ih =>
    by_cases ha : a < 4096
    · have ha' : a < Config.hw.memSize := by simpa
      have := ih (a := a + 1) (by omega) (by omega)
      simp only [readBytes, memRead, if_pos ha', this]
      congr 1
      omega
    · have ha' : ¬ a < Config.hw.memSize := by simpa using ha
      simp only [readBytes, memRead, if_neg ha']
      congr 1
      omega

/-! Writes of a run of bytes (R66). -/

/-- A run of writes changes memory only: the rest of the state is as before. -/
theorem writeInRange_eq (a : Nat) (bytes : List Byte) (s : State) :
    writeInRange a bytes s = s.setMem (writeInRange a bytes s).mem := by
  induction bytes generalizing a s with
  | nil => rfl
  | cons b bs ih =>
    rw [writeInRange, ih]
    split_ifs <;> rfl

@[simp] theorem writeInRange_v (a : Nat) (bytes : List Byte) (s : State) : (writeInRange a bytes s).v = s.v := by rw [writeInRange_eq]; rfl
@[simp] theorem writeInRange_i (a : Nat) (bytes : List Byte) (s : State) : (writeInRange a bytes s).i = s.i := by rw [writeInRange_eq]; rfl
@[simp] theorem writeInRange_pc (a : Nat) (bytes : List Byte) (s : State) : (writeInRange a bytes s).pc = s.pc := by rw [writeInRange_eq]; rfl
@[simp] theorem writeInRange_stk (a : Nat) (bytes : List Byte) (s : State) : (writeInRange a bytes s).stk = s.stk := by rw [writeInRange_eq]; rfl
@[simp] theorem writeInRange_fb (a : Nat) (bytes : List Byte) (s : State) : (writeInRange a bytes s).fb = s.fb := by rw [writeInRange_eq]; rfl
@[simp] theorem writeInRange_k (a : Nat) (bytes : List Byte) (s : State) : (writeInRange a bytes s).k = s.k := by rw [writeInRange_eq]; rfl
@[simp] theorem writeInRange_dt (a : Nat) (bytes : List Byte) (s : State) : (writeInRange a bytes s).dt = s.dt := by rw [writeInRange_eq]; rfl
@[simp] theorem writeInRange_st (a : Nat) (bytes : List Byte) (s : State) : (writeInRange a bytes s).st = s.st := by rw [writeInRange_eq]; rfl
@[simp] theorem writeInRange_halt (a : Nat) (bytes : List Byte) (s : State) : (writeInRange a bytes s).halt = s.halt := by rw [writeInRange_eq]; rfl
@[simp] theorem writeInRange_cause (a : Nat) (bytes : List Byte) (s : State) : (writeInRange a bytes s).cause = s.cause := by rw [writeInRange_eq]; rfl
@[simp] theorem writeInRange_continues (a : Nat) (bytes : List Byte) (s : State) : (writeInRange a bytes s).continues = s.continues := by rw [writeInRange_eq]; rfl
@[simp] theorem writeInRange_diag (a : Nat) (bytes : List Byte) (s : State) : (writeInRange a bytes s).diag = s.diag := by rw [writeInRange_eq]; rfl
@[simp] theorem writeInRange_free (a : Nat) (bytes : List Byte) (s : State) : (writeInRange a bytes s).free = s.free := by rw [writeInRange_eq]; rfl
@[simp] theorem writeInRange_getV (a : Nat) (bytes : List Byte) (s : State) (q : Reg) : (writeInRange a bytes s).getV q = s.getV q := by rw [writeInRange_eq]; rfl

/-- A run of writes keeps the canonical form. -/
theorem writeInRange_wf (a : Nat) (bytes : List Byte) {s : State} (h : Memory.wf s.mem = true) :
    Memory.wf (writeInRange a bytes s).mem = true := by
  induction bytes generalizing a s with
  | nil => exact h
  | cons b bs ih =>
    rw [writeInRange]
    split_ifs with ha
    · exact ih (a + 1) (State.setByte_wf h (by simpa using ha) b)
    · exact ih (a + 1) h

/-- A run of writes reads back where it wrote, and every other byte is as before. -/
theorem writeInRange_byteAt (a : Nat) (bytes : List Byte) {s : State} (h : Memory.wf s.mem = true) (c : Nat) :
    (writeInRange a bytes s).byteAt c =
      if a ≤ c ∧ c < a + bytes.length ∧ c < 4096 then bytes.getD (c - a) 0 else s.byteAt c := by
  induction bytes generalizing a s with
  | nil => rw [writeInRange, if_neg (by simp; omega)]
  | cons b bs ih =>
    rw [writeInRange]
    by_cases ha : a < 4096
    · rw [if_pos (by simpa using ha), ih (a + 1) (State.setByte_wf h ha b), State.setByte_byteAt h]
      by_cases hc : c = a
      · subst hc
        rw [if_neg (by omega), if_pos rfl, if_pos (by simp; omega)]
        simp
      · by_cases hr : a + 1 ≤ c ∧ c < a + 1 + bs.length ∧ c < 4096
        · rw [if_pos hr, if_pos (by simp; omega)]
          have : c - a = (c - (a + 1)) + 1 := by omega
          rw [this, List.getD_cons_succ]
        · rw [if_neg hr, if_neg hc, if_neg (by simp; omega)]
    · rw [if_neg (by simpa using ha), ih (a + 1) h, if_neg (by omega), if_neg (by omega)]

/-- Writes in range all happen. -/
theorem writeBytes_ok {a : Nat} {bytes : List Byte} {s : State} (h : bytes = [] ∨ a + bytes.length ≤ 4096) :
    writeBytes a bytes s = .ok (writeInRange a bytes s) := by
  induction bytes generalizing a s with
  | nil => rfl
  | cons b bs ih =>
    have hl : a + (bs.length + 1) ≤ 4096 := by simpa using h
    have ha : a < Config.hw.memSize := by simp; omega
    rw [writeBytes, memWrite, if_pos ha, writeInRange, if_pos ha]
    exact ih (by right; omega)

/-- Writes that leave the space stop at the first address out of range (R202). -/
theorem writeBytes_error {a : Nat} {bytes : List Byte} {s : State} (h0 : bytes ≠ [])
    (h : 4096 < a + bytes.length) : writeBytes a bytes s = .error (max a 4096) := by
  induction bytes generalizing a s with
  | nil => exact absurd rfl h0
  | cons b bs ih =>
    have hl : 4096 < a + (bs.length + 1) := by simpa using h
    by_cases ha : a < 4096
    · rw [writeBytes, memWrite, if_pos (by simpa using ha)]
      have := ih (a := a + 1) (s := s.setByte a b) (by rintro rfl; simp at hl; omega) (by omega)
      simp only [this]
      congr 1
      omega
    · rw [writeBytes, memWrite, if_neg (by simpa using ha)]
      simp only
      congr 1
      omega

/-- Every store at `I` either does all its writes or latches the data address fault at the first address out of
range (R176, R202). -/
theorem storeAtIndex_eq (bytes : List Byte) (s : State) (h0 : bytes ≠ []) :
    storeAtIndex bytes s =
      if s.i.toNat + bytes.length ≤ 4096 then .ok (writeInRange s.i.toNat bytes s)
      else .error (raiseDataAddress (max s.i.toNat 4096) (scrambleBytes s.i.toNat bytes.length s)) := by
  unfold storeAtIndex dataAddress
  split_ifs with h
  · rw [Nat.add_zero, writeBytes_ok (.inr h)]
  · rw [Nat.add_zero, writeBytes_error h0 (by omega)]

/-! Runs of registers (R174, R175). -/

theorem setRegsFrom_eq (k : Nat) (bytes : List Byte) (s : State) :
    setRegsFrom k bytes s = { s with v := (setRegsFrom k bytes s).v } := by
  induction bytes generalizing k s with
  | nil => rfl
  | cons b bs ih =>
    rw [setRegsFrom]
    split_ifs
    · rw [ih]; rfl
    · rfl

@[simp] theorem setRegsFrom_i (k : Nat) (bytes : List Byte) (s : State) : (setRegsFrom k bytes s).i = s.i := by rw [setRegsFrom_eq]
@[simp] theorem setRegsFrom_pc (k : Nat) (bytes : List Byte) (s : State) : (setRegsFrom k bytes s).pc = s.pc := by rw [setRegsFrom_eq]
@[simp] theorem setRegsFrom_stk (k : Nat) (bytes : List Byte) (s : State) : (setRegsFrom k bytes s).stk = s.stk := by rw [setRegsFrom_eq]
@[simp] theorem setRegsFrom_fb (k : Nat) (bytes : List Byte) (s : State) : (setRegsFrom k bytes s).fb = s.fb := by rw [setRegsFrom_eq]
@[simp] theorem setRegsFrom_k (k : Nat) (bytes : List Byte) (s : State) : (setRegsFrom k bytes s).k = s.k := by rw [setRegsFrom_eq]
@[simp] theorem setRegsFrom_dt (k : Nat) (bytes : List Byte) (s : State) : (setRegsFrom k bytes s).dt = s.dt := by rw [setRegsFrom_eq]
@[simp] theorem setRegsFrom_st (k : Nat) (bytes : List Byte) (s : State) : (setRegsFrom k bytes s).st = s.st := by rw [setRegsFrom_eq]
@[simp] theorem setRegsFrom_halt (k : Nat) (bytes : List Byte) (s : State) : (setRegsFrom k bytes s).halt = s.halt := by rw [setRegsFrom_eq]
@[simp] theorem setRegsFrom_cause (k : Nat) (bytes : List Byte) (s : State) : (setRegsFrom k bytes s).cause = s.cause := by rw [setRegsFrom_eq]
@[simp] theorem setRegsFrom_mem (k : Nat) (bytes : List Byte) (s : State) : (setRegsFrom k bytes s).mem = s.mem := by rw [setRegsFrom_eq]
@[simp] theorem setRegsFrom_continues (k : Nat) (bytes : List Byte) (s : State) : (setRegsFrom k bytes s).continues = s.continues := by rw [setRegsFrom_eq]
@[simp] theorem setRegsFrom_diag (k : Nat) (bytes : List Byte) (s : State) : (setRegsFrom k bytes s).diag = s.diag := by rw [setRegsFrom_eq]
@[simp] theorem setRegsFrom_free (k : Nat) (bytes : List Byte) (s : State) : (setRegsFrom k bytes s).free = s.free := by rw [setRegsFrom_eq]
@[simp] theorem setRegsFrom_byteAt (k : Nat) (bytes : List Byte) (s : State) (q : Nat) : (setRegsFrom k bytes s).byteAt q = s.byteAt q := by rw [setRegsFrom_eq]; rfl

/-- Registers written from number `k` up read back; the others are as before. -/
theorem setRegsFrom_getV (k : Nat) (bytes : List Byte) (s : State) (r : Reg) :
    (setRegsFrom k bytes s).getV r = if k ≤ r.val ∧ r.val < k + bytes.length then bytes.getD (r.val - k) 0
      else s.getV r := by
  induction bytes generalizing k s with
  | nil => rw [setRegsFrom, if_neg (by simp)]
  | cons b bs ih =>
    rw [setRegsFrom]
    split_ifs with h1 h2 h2
    · rw [ih]
      by_cases hr : r.val = k
      · have : r = ⟨k, h1⟩ := Fin.ext hr
        rw [if_neg (by omega), this, State.setV_getV_same]
        simp
      · simp only [List.length_cons] at h2
        rw [if_pos (by omega)]
        have : r.val - k = (r.val - (k + 1)) + 1 := by omega
        rw [this, List.getD_cons_succ]
    · rw [ih]
      simp only [List.length_cons] at h2
      rw [if_neg (by omega), State.setV_getV_ne _ _ _ _ (by rintro rfl; simp at h2)]
    · have := r.isLt; omega
    · rfl

theorem regsUpTo_length (x : Reg) (s : State) : (regsUpTo x s).length = x.val + 1 := by
  simp [regsUpTo]

theorem regsUpTo_getD (x : Reg) (s : State) (r : Reg) (h : r ≤ x) : (regsUpTo x s).getD r.val 0 = s.getV r := by
  have h1 : r.val < x.val + 1 := Nat.lt_succ_of_le h
  simp [regsUpTo, State.getV, List.getD_eq_getElem?_getD, h1]

/-! What a data address fault leaves unspecified: nothing but the locations it names changes (R202). -/

theorem scrambleBytes_eq (a n : Nat) (s : State) :
    scrambleBytes a n s = { s with mem := (scrambleBytes a n s).mem, free := s.free + n } := by
  unfold scrambleBytes
  rw [writeInRange_eq]
  rfl

@[simp] theorem scrambleBytes_v (a n : Nat) (s : State) : (scrambleBytes a n s).v = s.v := by rw [scrambleBytes_eq]
@[simp] theorem scrambleBytes_i (a n : Nat) (s : State) : (scrambleBytes a n s).i = s.i := by rw [scrambleBytes_eq]
@[simp] theorem scrambleBytes_pc (a n : Nat) (s : State) : (scrambleBytes a n s).pc = s.pc := by rw [scrambleBytes_eq]
@[simp] theorem scrambleBytes_stk (a n : Nat) (s : State) : (scrambleBytes a n s).stk = s.stk := by rw [scrambleBytes_eq]
@[simp] theorem scrambleBytes_fb (a n : Nat) (s : State) : (scrambleBytes a n s).fb = s.fb := by rw [scrambleBytes_eq]
@[simp] theorem scrambleBytes_k (a n : Nat) (s : State) : (scrambleBytes a n s).k = s.k := by rw [scrambleBytes_eq]
@[simp] theorem scrambleBytes_dt (a n : Nat) (s : State) : (scrambleBytes a n s).dt = s.dt := by rw [scrambleBytes_eq]
@[simp] theorem scrambleBytes_st (a n : Nat) (s : State) : (scrambleBytes a n s).st = s.st := by rw [scrambleBytes_eq]
@[simp] theorem scrambleBytes_halt (a n : Nat) (s : State) : (scrambleBytes a n s).halt = s.halt := by rw [scrambleBytes_eq]
@[simp] theorem scrambleBytes_cause (a n : Nat) (s : State) : (scrambleBytes a n s).cause = s.cause := by rw [scrambleBytes_eq]
@[simp] theorem scrambleBytes_continues (a n : Nat) (s : State) : (scrambleBytes a n s).continues = s.continues := by rw [scrambleBytes_eq]
@[simp] theorem scrambleBytes_diag (a n : Nat) (s : State) : (scrambleBytes a n s).diag = s.diag := by rw [scrambleBytes_eq]
@[simp] theorem scrambleBytes_free (a n : Nat) (s : State) : (scrambleBytes a n s).free = s.free + n := by rw [scrambleBytes_eq]
@[simp] theorem scrambleBytes_getV (a n : Nat) (s : State) (q : Reg) : (scrambleBytes a n s).getV q = s.getV q := by rw [scrambleBytes_eq]; rfl

theorem scrambleBytes_wf (a n : Nat) {s : State} (h : Memory.wf s.mem = true) :
    Memory.wf (scrambleBytes a n s).mem = true := writeInRange_wf a _ h

theorem scrambleBytes_byteAt (a n : Nat) {s : State} (h : Memory.wf s.mem = true) (c : Nat)
    (hc : c < a ∨ a + n ≤ c) : (scrambleBytes a n s).byteAt c = s.byteAt c := by
  show (writeInRange a (freeBytes n s) s).byteAt c = s.byteAt c
  rw [writeInRange_byteAt a _ h, if_neg]
  simp [freeBytes]
  omega

theorem scrambleRegs_eq (x : Reg) (s : State) :
    scrambleRegs x s = { s with v := (scrambleRegs x s).v, free := s.free + (x.val + 1) } := by
  unfold scrambleRegs
  rw [setRegsFrom_eq]
  rfl

@[simp] theorem scrambleRegs_i (x : Reg) (s : State) : (scrambleRegs x s).i = s.i := by rw [scrambleRegs_eq]
@[simp] theorem scrambleRegs_pc (x : Reg) (s : State) : (scrambleRegs x s).pc = s.pc := by rw [scrambleRegs_eq]
@[simp] theorem scrambleRegs_stk (x : Reg) (s : State) : (scrambleRegs x s).stk = s.stk := by rw [scrambleRegs_eq]
@[simp] theorem scrambleRegs_fb (x : Reg) (s : State) : (scrambleRegs x s).fb = s.fb := by rw [scrambleRegs_eq]
@[simp] theorem scrambleRegs_k (x : Reg) (s : State) : (scrambleRegs x s).k = s.k := by rw [scrambleRegs_eq]
@[simp] theorem scrambleRegs_dt (x : Reg) (s : State) : (scrambleRegs x s).dt = s.dt := by rw [scrambleRegs_eq]
@[simp] theorem scrambleRegs_st (x : Reg) (s : State) : (scrambleRegs x s).st = s.st := by rw [scrambleRegs_eq]
@[simp] theorem scrambleRegs_halt (x : Reg) (s : State) : (scrambleRegs x s).halt = s.halt := by rw [scrambleRegs_eq]
@[simp] theorem scrambleRegs_cause (x : Reg) (s : State) : (scrambleRegs x s).cause = s.cause := by rw [scrambleRegs_eq]
@[simp] theorem scrambleRegs_mem (x : Reg) (s : State) : (scrambleRegs x s).mem = s.mem := by rw [scrambleRegs_eq]
@[simp] theorem scrambleRegs_continues (x : Reg) (s : State) : (scrambleRegs x s).continues = s.continues := by rw [scrambleRegs_eq]
@[simp] theorem scrambleRegs_diag (x : Reg) (s : State) : (scrambleRegs x s).diag = s.diag := by rw [scrambleRegs_eq]
@[simp] theorem scrambleRegs_free (x : Reg) (s : State) : (scrambleRegs x s).free = s.free + (x.val + 1) := by rw [scrambleRegs_eq]
@[simp] theorem scrambleRegs_byteAt (x : Reg) (s : State) (q : Nat) : (scrambleRegs x s).byteAt q = s.byteAt q := by rw [scrambleRegs_eq]; rfl

theorem scrambleRegs_getV (x : Reg) (s : State) (r : Reg) (h : x < r) : (scrambleRegs x s).getV r = s.getV r := by
  show (setRegsFrom 0 (freeBytes (x.val + 1) s) s).getV r = s.getV r
  rw [setRegsFrom_getV, if_neg]
  have : x.val < r.val := h
  simp [freeBytes]
  omega

theorem scrambleDisplay_eq (s : State) :
    scrambleDisplay s =
      { s with v := (scrambleDisplay s).v, fb := (scrambleDisplay s).fb, free := s.free + 1 } := by
  apply State.ext <;> simp [scrambleDisplay]

@[simp] theorem scrambleDisplay_i (s : State) : (scrambleDisplay s).i = s.i := by simp [scrambleDisplay]
@[simp] theorem scrambleDisplay_pc (s : State) : (scrambleDisplay s).pc = s.pc := by simp [scrambleDisplay]
@[simp] theorem scrambleDisplay_stk (s : State) : (scrambleDisplay s).stk = s.stk := by simp [scrambleDisplay]
@[simp] theorem scrambleDisplay_k (s : State) : (scrambleDisplay s).k = s.k := by simp [scrambleDisplay]
@[simp] theorem scrambleDisplay_dt (s : State) : (scrambleDisplay s).dt = s.dt := by simp [scrambleDisplay]
@[simp] theorem scrambleDisplay_st (s : State) : (scrambleDisplay s).st = s.st := by simp [scrambleDisplay]
@[simp] theorem scrambleDisplay_halt (s : State) : (scrambleDisplay s).halt = s.halt := by simp [scrambleDisplay]
@[simp] theorem scrambleDisplay_cause (s : State) : (scrambleDisplay s).cause = s.cause := by simp [scrambleDisplay]
@[simp] theorem scrambleDisplay_mem (s : State) : (scrambleDisplay s).mem = s.mem := by simp [scrambleDisplay]
@[simp] theorem scrambleDisplay_continues (s : State) : (scrambleDisplay s).continues = s.continues := by simp [scrambleDisplay]
@[simp] theorem scrambleDisplay_diag (s : State) : (scrambleDisplay s).diag = s.diag := by simp [scrambleDisplay]
@[simp] theorem scrambleDisplay_free (s : State) : (scrambleDisplay s).free = s.free + 1 := by simp [scrambleDisplay]
@[simp] theorem scrambleDisplay_byteAt (s : State) (q : Nat) : (scrambleDisplay s).byteAt q = s.byteAt q := by simp [scrambleDisplay]

theorem scrambleDisplay_getV (s : State) (r : Reg) (h : r ≠ vf) : (scrambleDisplay s).getV r = s.getV r := by
  simp [scrambleDisplay, State.setV_getV, h]

/-! The stack and the small conditionals. -/

/-- The fetch is legal exactly when both bytes exist (R201). -/
theorem fetchLegal_iff (s : State) : fetchLegal s = true ↔ s.pc.toNat + 1 < 4096 := decide_eq_true_iff

theorem fetchLegal_eq_false_iff (s : State) : fetchLegal s = false ↔ 4096 ≤ s.pc.toNat + 1 := by
  rw [Bool.eq_false_iff, Ne, fetchLegal_iff]
  omega

theorem pop_push (w : Word) (s : State) : pop (push w s) = some (w, s) := by
  simp [pop, push]
  rfl

theorem pop_nil {s : State} (h : s.stk = []) : pop s = none := by simp [pop, h]

theorem pop_concat {s : State} {l : List Word} {w : Word} (h : s.stk = l ++ [w]) :
    pop s = some (w, s.setStk l) := by simp [pop, h]

theorem stackHasRoom_eq (s : State) : stackHasRoom s = true := rfl

theorem State.skipIf_eq (s : State) (c : Bool) : s.skipIf c = s.setPc (if c then s.pc + 4 else s.pc + 2) := by
  cases c <;> rfl

@[simp] theorem State.skipIf_v (s : State) (c : Bool) : (s.skipIf c).v = s.v := by cases c <;> rfl
@[simp] theorem State.skipIf_i (s : State) (c : Bool) : (s.skipIf c).i = s.i := by cases c <;> rfl
@[simp] theorem State.skipIf_stk (s : State) (c : Bool) : (s.skipIf c).stk = s.stk := by cases c <;> rfl
@[simp] theorem State.skipIf_fb (s : State) (c : Bool) : (s.skipIf c).fb = s.fb := by cases c <;> rfl
@[simp] theorem State.skipIf_k (s : State) (c : Bool) : (s.skipIf c).k = s.k := by cases c <;> rfl
@[simp] theorem State.skipIf_dt (s : State) (c : Bool) : (s.skipIf c).dt = s.dt := by cases c <;> rfl
@[simp] theorem State.skipIf_st (s : State) (c : Bool) : (s.skipIf c).st = s.st := by cases c <;> rfl
@[simp] theorem State.skipIf_halt (s : State) (c : Bool) : (s.skipIf c).halt = s.halt := by cases c <;> rfl
@[simp] theorem State.skipIf_cause (s : State) (c : Bool) : (s.skipIf c).cause = s.cause := by cases c <;> rfl
@[simp] theorem State.skipIf_mem (s : State) (c : Bool) : (s.skipIf c).mem = s.mem := by cases c <;> rfl
@[simp] theorem State.skipIf_continues (s : State) (c : Bool) : (s.skipIf c).continues = s.continues := by cases c <;> rfl
@[simp] theorem State.skipIf_diag (s : State) (c : Bool) : (s.skipIf c).diag = s.diag := by cases c <;> rfl
@[simp] theorem State.skipIf_free (s : State) (c : Bool) : (s.skipIf c).free = s.free := by cases c <;> rfl
@[simp] theorem State.skipIf_getV (s : State) (c : Bool) (q : Reg) : (s.skipIf c).getV q = s.getV q := by cases c <;> rfl
@[simp] theorem State.skipIf_byteAt (s : State) (c : Bool) (q : Nat) : (s.skipIf c).byteAt q = s.byteAt q := by cases c <;> rfl

theorem shiftOperand_eq (x y : Reg) (s : State) : shiftOperand x y s = s.getV x := rfl

theorem indexAfterTransfer_eq (x : Reg) (s : State) : indexAfterTransfer x s = s.i := rfl

theorem flagByte_toNat (c : Bool) : (flagByte c).toNat = if c then 1 else 0 := by cases c <;> rfl

/-- `LD Vx,K` finds a key exactly when one is pressed, and then the least (R192). -/
theorem lowestPressed_some {s : State} {k : Key} :
    lowestPressed s = some k ↔ s.k[k] = true ∧ ∀ j : Key, j < k → s.k[j] = false := by
  unfold lowestPressed allKeys
  constructor
  · intro h
    have hk := List.find?_some h
    refine ⟨hk, fun j hj => ?_⟩
    by_contra hne
    rw [Bool.not_eq_false] at hne
    have key : ∀ l : List Key, l.Pairwise (· < ·) → j ∈ l →
        l.find? (fun q => s.k[q]) = some k → ¬ j < k := by
      intro l hl hj' hf
      obtain ⟨_, as, bs, rfl, hb⟩ := List.find?_eq_some_iff_append.1 hf
      rcases List.mem_append.1 hj' with hm | hm
      · have := hb j hm; simp [hne] at this
      · have hp := (List.pairwise_append.1 hl).2.1
        rcases List.mem_cons.1 hm with rfl | hm
        · exact lt_irrefl _
        · exact not_lt_of_gt ((List.pairwise_cons.1 hp).1 j hm)
    exact key _ (by decide) (List.mem_finRange j) h hj
  · rintro ⟨hk, hlt⟩
    rw [List.find?_eq_some_iff_append]
    refine ⟨hk, ?_⟩
    have key : ∀ l : List Key, l.Pairwise (· < ·) → k ∈ l →
        ∃ as bs, l = as ++ k :: bs ∧ ∀ a ∈ as, (!s.k[a]) = true := by
      intro l hl hm
      obtain ⟨as, bs, rfl⟩ := List.append_of_mem hm
      refine ⟨as, bs, rfl, fun a ha => ?_⟩
      have := (List.pairwise_append.1 hl).2.2 a ha k (by simp)
      simp [hlt a this]
    exact key _ (by decide) (List.mem_finRange k)

theorem lowestPressed_none {s : State} : lowestPressed s = none ↔ ∀ k : Key, s.k[k] = false := by
  unfold lowestPressed
  rw [List.find?_eq_none]
  constructor
  · intro h k
    have : k ∈ allKeys := by revert k; decide
    simpa using h k this
  · intro h k _
    simp [h k]

end Sys2Proof.Machine
end

