-- ==== Sys2Proof/Laws/Instr.lean ====
section
/-! SUPPORT. The four instructions that access memory as data, each as one equation in range and one out of range
(spec 43_index_memory.md R173 to R176; 44_display.md R181; 60_exceptions.md R202). -/

namespace Sys2Proof.Machine

theorem regsUpTo_ne_nil (x : Reg) (s : State) : regsUpTo x s ≠ [] := by
  intro h
  have := regsUpTo_length x s
  simp [h] at this

theorem execLdB_in_range (x : Reg) (s : State) (h : s.i.toNat + 2 < 4096) :
    execLdB x s = .next (writeInRange s.i.toNat (bcdDigits (s.getV x)) s).next := by
  have hl : (bcdDigits (s.getV x)).length = 3 := rfl
  rw [execLdB, storeAtIndex_eq _ _ (by simp [bcdDigits]), if_pos (by omega)]

theorem execLdB_out_of_range (x : Reg) (s : State) (h : 4096 ≤ s.i.toNat + 2) :
    execLdB x s = .next (raiseDataAddress (max s.i.toNat 4096) (scrambleBytes s.i.toNat 3 s)) := by
  have hl : (bcdDigits (s.getV x)).length = 3 := rfl
  rw [execLdB, storeAtIndex_eq _ _ (by simp [bcdDigits]), if_neg (by omega), hl]

theorem execStRegs_in_range (x : Reg) (s : State) (h : s.i.toNat + x.val < 4096) :
    execStRegs x s = .next (writeInRange s.i.toNat (regsUpTo x s) s).next := by
  rw [execStRegs, storeAtIndex_eq _ _ (regsUpTo_ne_nil x s), regsUpTo_length, if_pos (by omega)]
  simp only [indexAfterTransfer_eq]
  rw [writeInRange_eq]
  rfl

theorem execStRegs_out_of_range (x : Reg) (s : State) (h : 4096 ≤ s.i.toNat + x.val) :
    execStRegs x s =
      .next (raiseDataAddress (max s.i.toNat 4096) (scrambleBytes s.i.toNat (x.val + 1) s)) := by
  rw [execStRegs, storeAtIndex_eq _ _ (regsUpTo_ne_nil x s), regsUpTo_length, if_neg (by omega)]

theorem execLdRegs_in_range (x : Reg) (s : State) (h : s.i.toNat + x.val < 4096) :
    execLdRegs x s =
      .next (setRegsFrom 0 ((List.range (x.val + 1)).map fun j => s.byteAt (s.i.toNat + j)) s).next := by
  simp only [execLdRegs, dataAddress, Nat.add_zero]
  rw [readBytes_ok (by omega)]
  simp only [indexAfterTransfer_eq]
  rw [setRegsFrom_eq]
  rfl

theorem execLdRegs_out_of_range (x : Reg) (s : State) (h : 4096 ≤ s.i.toNat + x.val) :
    execLdRegs x s = .next (raiseDataAddress (max s.i.toNat 4096) (scrambleRegs x s)) := by
  simp only [execLdRegs, dataAddress, Nat.add_zero]
  rw [readBytes_error (by omega) (by omega)]

/-- The registers after a run of loads: `V0` to `Vx` hold the run, the others are as before (R175). -/
theorem loadedRegs_getV (x r : Reg) (s : State) :
    (setRegsFrom 0 ((List.range (x.val + 1)).map fun j => s.byteAt (s.i.toNat + j)) s).getV r =
      if r ≤ x then s.byteAt (s.i.toNat + r.val) else s.getV r := by
  rw [setRegsFrom_getV]
  by_cases h : r ≤ x
  · have h' : r.val ≤ x.val := h
    have h2 : r.val < x.val + 1 := by omega
    rw [if_pos h, if_pos (by simp; omega)]
    simp [List.getD_eq_getElem?_getD, h2]
  · have h' : ¬ r.val ≤ x.val := h
    rw [if_neg h, if_neg (by simp; omega)]

/-- A completed draw (R181), its sprite read from memory. -/
theorem execDrw_in_range (x y : Reg) (n : Fin 16) (s : State) (h : n.val = 0 ∨ s.i.toNat + n.val ≤ 4096) :
    execDrw x y n s =
      .next (((s.setFb (blitRows (s.getV x) (s.getV y) 0 (spriteAt s n.val) ⟨s.fb, false⟩).fb).setV vf
        (flagByte (blitRows (s.getV x) (s.getV y) 0 (spriteAt s n.val) ⟨s.fb, false⟩).collision)).next) := by
  simp only [execDrw, dataAddress, Nat.add_zero]
  rw [readBytes_ok h]
  rfl

theorem execDrw_out_of_range (x y : Reg) (n : Fin 16) (s : State) (h0 : n.val ≠ 0)
    (h : 4096 < s.i.toNat + n.val) :
    execDrw x y n s = .next (raiseDataAddress (max s.i.toNat 4096) (scrambleDisplay s)) := by
  simp only [execDrw, dataAddress, Nat.add_zero]
  rw [readBytes_error h0 h]

theorem mem_regsThrough (x r : Reg) : r ∈ regsThrough x ↔ r ≤ x := by simp [regsThrough]

end Sys2Proof.Machine
end

