-- ==== Sys2Proof/Laws/PerInstr.lean ====
section
/-! SUPPORT. Per instruction: the word that encodes it is none of R98's unknown words (spec 30_encoding.md R98). -/

namespace Sys2Proof.Laws.EncodesKnownWord

/-- The instruction's word falls in no class of R98. -/
def Statement (i : Instr) : Prop := unknownClass (encode i) = none

theorem cls : Statement .cls := by unfold Statement; decide

theorem ret : Statement .ret := by unfold Statement; decide

theorem jp (nnn : Addr) : Statement (.jp nnn) := by
  have hnnn := nnn.isLt
  rw [Statement, unknownClass_eq_none, encode, formatA_toNat]
  simp
  omega

theorem call (nnn : Addr) : Statement (.call nnn) := by
  have hnnn := nnn.isLt
  rw [Statement, unknownClass_eq_none, encode, formatA_toNat]
  simp
  omega

theorem seImm (x : Reg) (nn : Byte) : Statement (.seImm x nn) := by
  have hx := x.isLt
  have hnn := nn.isLt
  rw [Statement, unknownClass_eq_none, encode, formatXI_toNat]
  simp
  omega

theorem sneImm (x : Reg) (nn : Byte) : Statement (.sneImm x nn) := by
  have hx := x.isLt
  have hnn := nn.isLt
  rw [Statement, unknownClass_eq_none, encode, formatXI_toNat]
  simp
  omega

theorem seReg (x y : Reg) : Statement (.seReg x y) := by
  have hx := x.isLt
  have hy := y.isLt
  rw [Statement, unknownClass_eq_none, encode, formatXYN_toNat]
  simp
  omega

theorem ldImm (x : Reg) (nn : Byte) : Statement (.ldImm x nn) := by
  have hx := x.isLt
  have hnn := nn.isLt
  rw [Statement, unknownClass_eq_none, encode, formatXI_toNat]
  simp
  omega

theorem addImm (x : Reg) (nn : Byte) : Statement (.addImm x nn) := by
  have hx := x.isLt
  have hnn := nn.isLt
  rw [Statement, unknownClass_eq_none, encode, formatXI_toNat]
  simp
  omega

theorem ldReg (x y : Reg) : Statement (.ldReg x y) := by
  have hx := x.isLt
  have hy := y.isLt
  rw [Statement, unknownClass_eq_none, encode, formatXYN_toNat]
  simp
  omega

theorem orReg (x y : Reg) : Statement (.orReg x y) := by
  have hx := x.isLt
  have hy := y.isLt
  rw [Statement, unknownClass_eq_none, encode, formatXYN_toNat]
  simp
  omega

theorem andReg (x y : Reg) : Statement (.andReg x y) := by
  have hx := x.isLt
  have hy := y.isLt
  rw [Statement, unknownClass_eq_none, encode, formatXYN_toNat]
  simp
  omega

theorem xorReg (x y : Reg) : Statement (.xorReg x y) := by
  have hx := x.isLt
  have hy := y.isLt
  rw [Statement, unknownClass_eq_none, encode, formatXYN_toNat]
  simp
  omega

theorem addReg (x y : Reg) : Statement (.addReg x y) := by
  have hx := x.isLt
  have hy := y.isLt
  rw [Statement, unknownClass_eq_none, encode, formatXYN_toNat]
  simp
  omega

theorem sub (x y : Reg) : Statement (.sub x y) := by
  have hx := x.isLt
  have hy := y.isLt
  rw [Statement, unknownClass_eq_none, encode, formatXYN_toNat]
  simp
  omega

theorem shr (x y : Reg) : Statement (.shr x y) := by
  have hx := x.isLt
  have hy := y.isLt
  rw [Statement, unknownClass_eq_none, encode, formatXYN_toNat]
  simp
  omega

theorem subn (x y : Reg) : Statement (.subn x y) := by
  have hx := x.isLt
  have hy := y.isLt
  rw [Statement, unknownClass_eq_none, encode, formatXYN_toNat]
  simp
  omega

theorem shl (x y : Reg) : Statement (.shl x y) := by
  have hx := x.isLt
  have hy := y.isLt
  rw [Statement, unknownClass_eq_none, encode, formatXYN_toNat]
  simp
  omega

theorem sneReg (x y : Reg) : Statement (.sneReg x y) := by
  have hx := x.isLt
  have hy := y.isLt
  rw [Statement, unknownClass_eq_none, encode, formatXYN_toNat]
  simp
  omega

theorem ldI (nnn : Addr) : Statement (.ldI nnn) := by
  have hnnn := nnn.isLt
  rw [Statement, unknownClass_eq_none, encode, formatA_toNat]
  simp
  omega

theorem jpV0 (nnn : Addr) : Statement (.jpV0 nnn) := by
  have hnnn := nnn.isLt
  rw [Statement, unknownClass_eq_none, encode, formatA_toNat]
  simp
  omega

theorem rnd (x : Reg) (nn : Byte) : Statement (.rnd x nn) := by
  have hx := x.isLt
  have hnn := nn.isLt
  rw [Statement, unknownClass_eq_none, encode, formatXI_toNat]
  simp
  omega

theorem drw (x y : Reg) (n : Fin 16) : Statement (.drw x y n) := by
  have hx := x.isLt
  have hy := y.isLt
  have hn := n.isLt
  rw [Statement, unknownClass_eq_none, encode, formatXYN_toNat]
  simp
  omega

theorem skp (x : Reg) : Statement (.skp x) := by
  have hx := x.isLt
  rw [Statement, unknownClass_eq_none, encode, formatXF_toNat]
  simp
  omega

theorem sknp (x : Reg) : Statement (.sknp x) := by
  have hx := x.isLt
  rw [Statement, unknownClass_eq_none, encode, formatXF_toNat]
  simp
  omega

theorem ldVxDt (x : Reg) : Statement (.ldVxDt x) := by
  have hx := x.isLt
  rw [Statement, unknownClass_eq_none, encode, formatXF_toNat]
  simp
  omega

theorem ldVxK (x : Reg) : Statement (.ldVxK x) := by
  have hx := x.isLt
  rw [Statement, unknownClass_eq_none, encode, formatXF_toNat]
  simp
  omega

theorem ldDtVx (x : Reg) : Statement (.ldDtVx x) := by
  have hx := x.isLt
  rw [Statement, unknownClass_eq_none, encode, formatXF_toNat]
  simp
  omega

theorem ldStVx (x : Reg) : Statement (.ldStVx x) := by
  have hx := x.isLt
  rw [Statement, unknownClass_eq_none, encode, formatXF_toNat]
  simp
  omega

theorem addI (x : Reg) : Statement (.addI x) := by
  have hx := x.isLt
  rw [Statement, unknownClass_eq_none, encode, formatXF_toNat]
  simp
  omega

theorem ldF (x : Reg) : Statement (.ldF x) := by
  have hx := x.isLt
  rw [Statement, unknownClass_eq_none, encode, formatXF_toNat]
  simp
  omega

theorem ldB (x : Reg) : Statement (.ldB x) := by
  have hx := x.isLt
  rw [Statement, unknownClass_eq_none, encode, formatXF_toNat]
  simp
  omega

theorem stRegs (x : Reg) : Statement (.stRegs x) := by
  have hx := x.isLt
  rw [Statement, unknownClass_eq_none, encode, formatXF_toNat]
  simp
  omega

theorem ldRegs (x : Reg) : Statement (.ldRegs x) := by
  have hx := x.isLt
  rw [Statement, unknownClass_eq_none, encode, formatXF_toNat]
  simp
  omega

end Sys2Proof.Laws.EncodesKnownWord
end

