-- ==== Sys2Proof/Tests/Slice0.lean ====
section
/-! SUPPORT. Tests of one step each, their expected results from spec/95_test_vectors.md (the vector's name stands
in the comment), decoding of words spelled bit by bit from 30_encoding.md R92 and R95, and for every statement with
hypotheses a concrete case that meets them. -/

namespace Sys2Proof.Tests

open Sys2Proof Sys2Proof.Machine

set_option Elab.async false

/-! Small states. -/

/-- The reset state with some registers set. -/
def withRegs (l : List (Reg × Byte)) (s : State := State.reset) : State := l.foldl (fun s p => s.setV p.1 p.2) s

/-- A state with bytes of memory set from an address up. -/
def withBytes (a : Nat) (l : List Byte) (s : State := State.reset) : State := writeInRange a l s

/-- A state with some display cells lit. -/
def withLit (l : List (Fin 32 × Fin 64)) (s : State := State.reset) : State :=
  s.setFb (l.foldl (fun f p => f.set p.1 (f[p.1].set p.2 true)) s.fb)

/-- A state with some keys pressed. -/
def withKeys (l : List Key) (s : State := State.reset) : State := l.foldl (fun s k => s.setK k true) s

/-- A state with a word stored where the next step fetches. -/
def placed (w : Word) (s : State := State.reset) : State := placeWord s.pc.toNat w s

/-- The state a data address fault or a fetch fault leaves behind. -/
def halted : State := raiseFatal (.fetchFault 0x0FFF) (State.reset.setPc 0x0FFF)

/-- How many display cells are lit. -/
def litCells (s : State) : Nat := (s.fb.toList.map fun row => row.toList.countP id).sum

/-- Whether an outcome is a next state with a property. -/
def nextIs (r : Result) (p : State → Bool) : Bool :=
  match r with
  | .next t => p t
  | _ => false

/-- Whether running the word `w` in state `s` gives a next state with a property. -/
def runs (w : Word) (s : State) (p : State → Bool) : Bool := nextIs (step (placed w s)) p

theorem exists_next_of_nextIs {r : Result} {p : State → Bool} (h : nextIs r p = true) :
    ∃ t, r = .next t ∧ p t = true := by
  cases r with
  | next t => exact ⟨t, rfl, h⟩
  | fault _ => exact absurd h Bool.false_ne_true
  | refused _ => exact absurd h Bool.false_ne_true

/-! Words that are no instruction (R98): one of each class, and its neighbours that are. -/

theorem test_wellFormed_refuses_class0 : wellFormedWord 0x00E1 = false ∧ wellFormedWord 0x00E0 = true := by decide
theorem test_wellFormed_refuses_class5 : wellFormedWord 0x5121 = false ∧ wellFormedWord 0x5120 = true := by decide
theorem test_wellFormed_refuses_class8 : wellFormedWord 0x8128 = false ∧ wellFormedWord 0x812E = true := by decide
theorem test_wellFormed_refuses_class9 : wellFormedWord 0x9121 = false ∧ wellFormedWord 0x9120 = true := by decide
theorem test_wellFormed_refuses_classE : wellFormedWord 0xE19F = false ∧ wellFormedWord 0xE19E = true := by decide
theorem test_wellFormed_refuses_classF : wellFormedWord 0xF166 = false ∧ wellFormedWord 0xF165 = true := by decide

/-- R96, U2: `5xy1` and `9xyF` rest on the strict reading, `8128` does not. -/
theorem test_strict_decode_words :
    restsOnStrictDecode 0x5121 = true ∧ restsOnStrictDecode 0x912F = true ∧ restsOnStrictDecode 0x8128 = false := by
  decide

/-! Decoding, each word spelled in the fields of R92's format: op, then x, y, n or nn or nnn. -/

theorem test_decode_formats_Z_and_A :
    decodeWord (0b0000#4 ++ 0b000011100000#12) = .instr .cls ∧
    decodeWord (0b0000#4 ++ 0b000011101110#12) = .instr .ret ∧
    decodeWord (0b0001#4 ++ 0b101010111100#12) = .instr (.jp 0xABC) ∧
    decodeWord (0b0010#4 ++ 0b001100000001#12) = .instr (.call 0x301) ∧
    decodeWord (0b1010#4 ++ 0b000100100011#12) = .instr (.ldI 0x123) ∧
    decodeWord (0b1011#4 ++ 0b111111111110#12) = .instr (.jpV0 0xFFE) := by decide

theorem test_decode_format_XI :
    decodeWord (0b0011#4 ++ 0b0101#4 ++ 0b01000010#8) = .instr (.seImm 5 0x42) ∧
    decodeWord (0b0100#4 ++ 0b0110#4 ++ 0b10000001#8) = .instr (.sneImm 6 0x81) ∧
    decodeWord (0b0110#4 ++ 0b1010#4 ++ 0b01011100#8) = .instr (.ldImm 10 0x5C) ∧
    decodeWord (0b0111#4 ++ 0b0001#4 ++ 0b11111110#8) = .instr (.addImm 1 0xFE) ∧
    decodeWord (0b1100#4 ++ 0b0011#4 ++ 0b00001111#8) = .instr (.rnd 3 0x0F) := by decide +kernel

theorem test_decode_format_XY :
    decodeWord (0b0101#4 ++ 0b0001#4 ++ 0b0010#4 ++ 0b0000#4) = .instr (.seReg 1 2) ∧
    decodeWord (0b1000#4 ++ 0b0001#4 ++ 0b0010#4 ++ 0b0000#4) = .instr (.ldReg 1 2) ∧
    decodeWord (0b1000#4 ++ 0b0001#4 ++ 0b0010#4 ++ 0b0001#4) = .instr (.orReg 1 2) ∧
    decodeWord (0b1000#4 ++ 0b0001#4 ++ 0b0010#4 ++ 0b0010#4) = .instr (.andReg 1 2) ∧
    decodeWord (0b1000#4 ++ 0b0001#4 ++ 0b0010#4 ++ 0b0011#4) = .instr (.xorReg 1 2) ∧
    decodeWord (0b1000#4 ++ 0b0001#4 ++ 0b0010#4 ++ 0b0100#4) = .instr (.addReg 1 2) ∧
    decodeWord (0b1000#4 ++ 0b0001#4 ++ 0b0010#4 ++ 0b0101#4) = .instr (.sub 1 2) ∧
    decodeWord (0b1000#4 ++ 0b0001#4 ++ 0b0010#4 ++ 0b0110#4) = .instr (.shr 1 2) ∧
    decodeWord (0b1000#4 ++ 0b0001#4 ++ 0b0010#4 ++ 0b0111#4) = .instr (.subn 1 2) ∧
    decodeWord (0b1000#4 ++ 0b0001#4 ++ 0b0010#4 ++ 0b1110#4) = .instr (.shl 1 2) ∧
    decodeWord (0b1001#4 ++ 0b0001#4 ++ 0b0010#4 ++ 0b0000#4) = .instr (.sneReg 1 2) ∧
    decodeWord (0b1101#4 ++ 0b0001#4 ++ 0b0010#4 ++ 0b0101#4) = .instr (.drw 1 2 5) := by decide +kernel

theorem test_decode_format_XF :
    decodeWord (0b1110#4 ++ 0b0010#4 ++ 0b10011110#8) = .instr (.skp 2) ∧
    decodeWord (0b1110#4 ++ 0b0010#4 ++ 0b10100001#8) = .instr (.sknp 2) ∧
    decodeWord (0b1111#4 ++ 0b0011#4 ++ 0b00000111#8) = .instr (.ldVxDt 3) ∧
    decodeWord (0b1111#4 ++ 0b0011#4 ++ 0b00001010#8) = .instr (.ldVxK 3) ∧
    decodeWord (0b1111#4 ++ 0b0011#4 ++ 0b00010101#8) = .instr (.ldDtVx 3) ∧
    decodeWord (0b1111#4 ++ 0b0011#4 ++ 0b00011000#8) = .instr (.ldStVx 3) ∧
    decodeWord (0b1111#4 ++ 0b0011#4 ++ 0b00011110#8) = .instr (.addI 3) ∧
    decodeWord (0b1111#4 ++ 0b0011#4 ++ 0b00101001#8) = .instr (.ldF 3) ∧
    decodeWord (0b1111#4 ++ 0b0011#4 ++ 0b00110011#8) = .instr (.ldB 3) ∧
    decodeWord (0b1111#4 ++ 0b0011#4 ++ 0b01010101#8) = .instr (.stRegs 3) ∧
    decodeWord (0b1111#4 ++ 0b0011#4 ++ 0b01100101#8) = .instr (.ldRegs 3) := by decide +kernel

/-- Vectors T-U1 to T-U11. -/
theorem test_decode_unknown :
    ([0x0000, 0x00E1, 0x0FFF, 0x5121, 0x9121, 0x8128, 0x812F, 0xE19F, 0xF100, 0xF166, 0x00FF, 0x00FD, 0x00CF,
      0xF175].all fun w => decodeWord w = .unknown w) = true := by decide +kernel

theorem test_decodeTableWord :
    decodeTableWord 16 0x8124 = some (.addReg 1 2) ∧ decodeTableWord 16 0x00E0 = some .cls ∧
    decodeTableWord 16 0x0123 = none := by decide +kernel

/-- R90: an instruction is the first two bytes, high byte first. -/
theorem test_decodeBytes :
    decodeBytes [0x12, 0x34, 0x56] = .ok (.jp 0x234, [0x56]) ∧ decodeBytes [0x12] = .error .truncated ∧
    decodeBytes [0x01, 0x23] = .error (.unknownOpcode 0x0123) ∧ encodeBytes (.jp 0x234) = [0x12, 0x34] :=
  ⟨rfl, rfl, rfl, by decide⟩

/-- The word placed from reset is what the very next step runs. -/
theorem test_withFetchWord :
    nextIs (step (State.reset.withFetchWord 16 0x6A5C)) (fun t => t.getV 10 = 0x5C && t.pc = 0x202) = true := by
  decide +kernel

/-! Control transfer: vectors T-C. -/

/-- T-C1. -/
theorem test_jp : runs 0x1ABC State.reset (fun t => t.pc = 0x0ABC) = true := by decide +kernel

/-- T-C5. -/
theorem test_call : runs 0x2300 State.reset (fun t => t.pc = 0x0300 && t.stk = [0x0202]) = true := by decide +kernel

/-- T-C6: the last legal address. -/
theorem test_call_at_the_end :
    runs 0x2300 (State.reset.setPc 0x0FFE) (fun t => t.pc = 0x0300 && t.stk = [0x1000]) = true := by decide +kernel

/-- T-C9. -/
theorem test_ret :
    runs 0x00EE (State.reset.setStk [0x0ABC, 0x0123]) (fun t => t.pc = 0x0123 && t.stk = [0x0ABC]) = true := by
  decide +kernel

/-- T-C8. -/
theorem test_ret_empty :
    runs 0x00EE State.reset (fun t => t.pc = 0x0202 && t.stk = [] && t.diag = .emptyStackReturn && t.continues)
      = true := by decide +kernel

/-- T-C10, T-C11. -/
theorem test_seImm :
    (runs 0x3042 (withRegs [(0, 0x42)]) (fun t => t.pc = 0x0204) &&
      runs 0x3042 (withRegs [(0, 0x43)]) (fun t => t.pc = 0x0202)) = true := by decide +kernel

/-- T-C20: the skip runs past the end, and the next step faults. -/
theorem test_seImm_at_the_end :
    runs 0x3000 (State.reset.setPc 0x0FFE) (fun t => t.pc = 0x1002 && t.continues) = true := by decide +kernel

/-- T-C12, T-C13. -/
theorem test_sneImm :
    (runs 0x4042 (withRegs [(0, 0x42)]) (fun t => t.pc = 0x0202) &&
      runs 0x4042 (withRegs [(0, 0x43)]) (fun t => t.pc = 0x0204)) = true := by decide +kernel

/-- T-C14, T-C15, T-C18. -/
theorem test_seReg :
    (runs 0x5010 (withRegs [(0, 7), (1, 7)]) (fun t => t.pc = 0x0204) &&
      runs 0x5010 (withRegs [(0, 7), (1, 8)]) (fun t => t.pc = 0x0202) &&
      runs 0x5000 (withRegs [(0, 9)]) (fun t => t.pc = 0x0204)) = true := by decide +kernel

/-- T-C16, T-C17, T-C19. -/
theorem test_sneReg :
    (runs 0x9010 (withRegs [(0, 7), (1, 7)]) (fun t => t.pc = 0x0202) &&
      runs 0x9010 (withRegs [(0, 7), (1, 8)]) (fun t => t.pc = 0x0204) &&
      runs 0x9000 (withRegs [(0, 9)]) (fun t => t.pc = 0x0202)) = true := by decide +kernel

/-- T-C21. -/
theorem test_jpV0 : runs 0xB300 (withRegs [(0, 0xFF)]) (fun t => t.pc = 0x03FF) = true := by decide +kernel

/-- T-C22: no reduction to 12 bits. -/
theorem test_jpV0_past_the_end : runs 0xBFFF (withRegs [(0, 2)]) (fun t => t.pc = 0x1001) = true := by decide +kernel

/-! Immediate and random: vectors T-I. -/

/-- T-I1, T-I2. -/
theorem test_ldImm :
    (runs 0x6A5C State.reset (fun t => t.getV 10 = 0x5C && t.pc = 0x202) &&
      runs 0x6F00 (withRegs [(15, 1)]) (fun t => t.getV 15 = 0)) = true := by decide +kernel

/-- T-I3, T-I6. -/
theorem test_addImm :
    (runs 0x7102 (withRegs [(1, 0xFF), (15, 0x77)]) (fun t => t.getV 1 = 0x01 && t.getV 15 = 0x77) &&
      runs 0x7F01 (withRegs [(15, 0xFF)]) (fun t => t.getV 15 = 0)) = true := by decide +kernel

/-- T-I7, T-I8, T-I9: the masking, whatever byte is drawn. -/
theorem test_rnd_masks :
    (randomMasked 0xB7 3 0x0F State.reset).getV 3 = 0x07 ∧ (randomMasked 0xFF 3 0x00 State.reset).getV 3 = 0x00 ∧
    (randomMasked 0xB7 3 0xFF State.reset).getV 3 = 0xB7 := by decide +kernel

/-- R142: PC advances and the next draw is another one; the flag is not written. -/
theorem test_rnd_advances :
    runs 0xC30F (withRegs [(15, 0x77)]) (fun t => t.pc = 0x202 && t.free = 1 && t.getV 15 = 0x77) = true := by
  decide +kernel

/-! Register-to-register operations: vectors T-A. -/

/-- T-A1, T-A42. -/
theorem test_ldReg :
    (runs 0x8010 (withRegs [(1, 0x5A), (15, 0x77)]) (fun t => t.getV 0 = 0x5A && t.getV 15 = 0x77 && t.pc = 0x202) &&
      runs 0x8F10 (withRegs [(1, 0x33), (15, 1)]) (fun t => t.getV 15 = 0x33)) = true := by decide +kernel

/-- S1. -/
theorem test_orReg :
    runs 0x8011 (withRegs [(0, 0xF0), (1, 0x3C), (15, 0x77)])
      (fun t => t.getV 0 = 0xFC && t.getV 1 = 0x3C && t.getV 15 = 0x77) = true := by decide +kernel

/-- S1. -/
theorem test_andReg :
    runs 0x8012 (withRegs [(0, 0xF0), (1, 0x3C), (15, 0x77)])
      (fun t => t.getV 0 = 0x30 && t.getV 1 = 0x3C && t.getV 15 = 0x77) = true := by decide +kernel

/-- S1, T-A39. -/
theorem test_xorReg :
    (runs 0x8013 (withRegs [(0, 0xF0), (1, 0x3C), (15, 0x77)])
        (fun t => t.getV 0 = 0xCC && t.getV 1 = 0x3C && t.getV 15 = 0x77) &&
      runs 0x8F13 (withRegs [(15, 0xAA), (1, 0xFF)]) (fun t => t.getV 15 = 0x55)) = true := by decide +kernel

/-- S2, T-A9, T-A25. -/
theorem test_addReg :
    (runs 0x8014 (withRegs [(0, 250), (1, 10)]) (fun t => t.getV 0 = 4 && t.getV 15 = 1 && t.getV 1 = 10) &&
      runs 0x8014 (withRegs [(0, 100), (1, 155), (15, 0x77)]) (fun t => t.getV 0 = 255 && t.getV 15 = 0)) = true := by
  decide +kernel

/-- T-A30, T-A41, T-A50: VF as an operand, the same register twice. -/
theorem test_addReg_vf :
    (runs 0x8F14 (withRegs [(15, 200), (1, 100)]) (fun t => t.getV 15 = 1) &&
      runs 0x80F4 (withRegs [(0, 250), (15, 10)]) (fun t => t.getV 0 = 4 && t.getV 15 = 1) &&
      runs 0x8224 (withRegs [(2, 0xC3)]) (fun t => t.getV 2 = 0x86 && t.getV 15 = 1)) = true := by decide +kernel

/-- S3, T-A10. -/
theorem test_sub :
    (runs 0x8015 (withRegs [(0, 5), (1, 10), (15, 0x77)]) (fun t => t.getV 0 = 251 && t.getV 15 = 0) &&
      runs 0x8015 (withRegs [(0, 7), (1, 7)]) (fun t => t.getV 0 = 0 && t.getV 15 = 1)) = true := by decide +kernel

/-- T-A33, T-A38. -/
theorem test_sub_vf :
    (runs 0x8F15 (withRegs [(15, 10), (1, 5)]) (fun t => t.getV 15 = 1) &&
      runs 0x8FF5 (withRegs [(15, 9)]) (fun t => t.getV 15 = 1)) = true := by decide +kernel

/-- T-A19, T-A20: `y` is not used. -/
theorem test_shr :
    (runs 0x8006 (withRegs [(0, 0xFF)]) (fun t => t.getV 0 = 0x7F && t.getV 15 = 1) &&
      runs 0x8016 (withRegs [(0, 6), (1, 0xFF)]) (fun t => t.getV 0 = 3 && t.getV 15 = 0 && t.getV 1 = 0xFF))
      = true := by decide +kernel

/-- T-A34. -/
theorem test_shr_vf : runs 0x8F06 (withRegs [(15, 3)]) (fun t => t.getV 15 = 1) = true := by decide +kernel

/-- T-A15, T-A16. -/
theorem test_subn :
    (runs 0x8017 (withRegs [(0, 10), (1, 5), (15, 0x77)]) (fun t => t.getV 0 = 251 && t.getV 15 = 0) &&
      runs 0x8017 (withRegs [(0, 5), (1, 10)]) (fun t => t.getV 0 = 5 && t.getV 15 = 1)) = true := by decide +kernel

/-- T-A36. -/
theorem test_subn_vf : runs 0x8F17 (withRegs [(15, 5), (1, 10)]) (fun t => t.getV 15 = 1) = true := by decide +kernel

/-- T-A21, T-A24. -/
theorem test_shl :
    (runs 0x800E (withRegs [(0, 0x80)]) (fun t => t.getV 0 = 0 && t.getV 15 = 1) &&
      runs 0x801E (withRegs [(0, 0x41), (1, 0xFF)]) (fun t => t.getV 0 = 0x82 && t.getV 15 = 0)) = true := by
  decide +kernel

/-- T-A35. -/
theorem test_shl_vf : runs 0x8F0E (withRegs [(15, 0x81)]) (fun t => t.getV 15 = 1) = true := by decide +kernel

/-! Index register and memory: vectors T-M. -/

/-- T-M1. -/
theorem test_ldI : runs 0xA123 State.reset (fun t => t.i = 0x0123 && t.getV 15 = 0) = true := by decide +kernel

/-- T-M2, T-M3. -/
theorem test_addI :
    (runs 0xF11E ((withRegs [(1, 5), (15, 0x77)]).setI 0x0FFE) (fun t => t.i = 0x1003 && t.getV 15 = 0x77) &&
      runs 0xF11E ((withRegs [(1, 2), (15, 0x77)]).setI 0xFFFF) (fun t => t.i = 0x0001 && t.getV 15 = 0x77))
      = true := by decide +kernel

/-- T-M5, T-M6. -/
theorem test_ldF :
    (runs 0xF329 (withRegs [(3, 0x1A)])
        (fun t => t.i = 0x0032 && (List.range 5).map (fun j => t.byteAt (0x32 + j)) = [0xF0, 0x90, 0xF0, 0x90, 0x90]) &&
      runs 0xF329 (withRegs [(3, 0xF0)]) (fun t => t.i = 0)) = true := by decide +kernel

/-- T-M8: the last legal position. -/
theorem test_ldB :
    runs 0xF233 ((withRegs [(2, 123)]).setI 0x0FFD)
      (fun t => t.byteAt 0xFFD = 1 && t.byteAt 0xFFE = 2 && t.byteAt 0xFFF = 3 && t.i = 0x0FFD && t.pc = 0x202)
      = true := by decide +kernel

/-- T-M9. -/
theorem test_ldB_fault :
    runs 0xF233 ((withRegs [(2, 123)]).setI 0x0FFE)
      (fun t => t.halt && t.cause = .dataAddressFault 0x1000 && t.pc = 0x200 && !t.continues) = true := by
  decide +kernel

/-- T-M12: one register, one byte. -/
theorem test_stRegs :
    runs 0xF055 ((withRegs [(0, 0xAA), (1, 0xBB)]).setI 0x300)
      (fun t => t.byteAt 0x300 = 0xAA && t.byteAt 0x301 = 0 && t.i = 0x300) = true := by decide +kernel

/-- T-M10, T-M11: the last legal position, and one further. -/
theorem test_stRegs_at_the_end :
    (runs 0xFF55 ((withRegs [(0, 0x10), (15, 0x1F)]).setI 0x0FF0)
        (fun t => t.byteAt 0xFF0 = 0x10 && t.byteAt 0xFFF = 0x1F && t.i = 0x0FF0 && t.pc = 0x202) &&
      runs 0xFF55 (State.reset.setI 0x0FF1)
        (fun t => t.halt && t.cause = .dataAddressFault 0x1000 && t.pc = 0x200)) = true := by decide +kernel

/-- T-M13. -/
theorem test_ldRegs :
    runs 0xF465 (withRegs [(5, 0x99)])
      (fun t => t.getV 0 = 0xF0 && t.getV 1 = 0x90 && t.getV 4 = 0xF0 && t.getV 5 = 0x99 && t.i = 0) = true := by
  decide +kernel

/-- T-M14, T-M15, T-M16: the last byte of memory; one further; `I` itself out of range. -/
theorem test_ldRegs_at_the_end :
    (runs 0xF065 (withBytes 0xFFF [0x5E] (State.reset.setI 0x0FFF)) (fun t => t.getV 0 = 0x5E) &&
      runs 0xF165 (State.reset.setI 0x0FFF) (fun t => t.halt && t.cause = .dataAddressFault 0x1000) &&
      runs 0xF065 (State.reset.setI 0x1003) (fun t => t.halt && t.cause = .dataAddressFault 0x1003)) = true := by
  decide +kernel

/-! Display: vectors T-D. -/

/-- T-D1. -/
theorem test_cls :
    runs 0x00E0 (withLit [(3, 4), (31, 63)] (withRegs [(15, 1)]))
      (fun t => litCells t = 0 && t.getV 15 = 1) = true := by decide +kernel

/-- T-D3: both coordinates reduced, both wraps. -/
theorem test_drw_wraps :
    runs 0xD012 (withBytes 0x300 [0xFF, 0x81] ((withRegs [(0, 0xFD), (1, 0x3F)]).setI 0x300))
      (fun t => t.cell 31 61 && t.cell 31 63 && t.cell 31 0 && t.cell 31 4 && t.cell 0 61 && t.cell 0 4 &&
        litCells t = 10 && t.getV 15 = 0) = true := by decide +kernel

/-- T-D6, T-D5: a collision; VF as a coordinate. -/
theorem test_drw_collision :
    (runs 0xD011 (withLit [(0, 1)] (withBytes 0x300 [0xC0] (State.reset.setI 0x300)))
        (fun t => t.cell 0 0 && !t.cell 0 1 && t.getV 15 = 1) &&
      runs 0xDF11 (withBytes 0x300 [0x80] ((withRegs [(15, 5), (1, 2)]).setI 0x300))
        (fun t => t.cell 2 5 && litCells t = 1 && t.getV 15 = 0)) = true := by decide +kernel

/-! Keys, timers and host events: vectors T-K, T-F. -/

/-- T-K1, T-K3. -/
theorem test_skp :
    (runs 0xE29E (withKeys [10] (withRegs [(2, 0x1A)])) (fun t => t.pc = 0x204) &&
      runs 0xE59E (withRegs [(5, 3)]) (fun t => t.pc = 0x202)) = true := by decide +kernel

/-- T-K2, T-K4. -/
theorem test_sknp :
    (runs 0xE2A1 (withKeys [10] (withRegs [(2, 0x1A)])) (fun t => t.pc = 0x202) &&
      runs 0xE5A1 (withRegs [(5, 3)]) (fun t => t.pc = 0x204)) = true := by decide +kernel

/-- T-K8, T-K6. -/
theorem test_ldVxK :
    (runs 0xF30A (withKeys [15, 9, 4]) (fun t => t.getV 3 = 4 && t.pc = 0x202) &&
      runs 0xF30A (withKeys [0] (withRegs [(3, 9)])) (fun t => t.getV 3 = 0 && t.pc = 0x202)) = true := by
  decide +kernel

/-- T-K7. -/
theorem test_ldVxK_waits :
    runs 0xF30A (withRegs [(3, 9)]) (fun t => t = placed 0xF30A (withRegs [(3, 9)]) && t.continues) = true := by
  decide +kernel

/-- T-K10. -/
theorem test_ldVxDt :
    runs 0xF207 (State.reset.setDt 0x3C) (fun t => t.getV 2 = 0x3C && t.dt = 0x3C) = true := by decide +kernel

/-- T-K11. -/
theorem test_ldDtVx : runs 0xF215 (withRegs [(2, 0x80)]) (fun t => t.dt = 0x80 && t.st = 0) = true := by
  decide +kernel

/-- T-K12. -/
theorem test_ldStVx : runs 0xF218 (withRegs [(2, 1)]) (fun t => t.st = 1 && t.dt = 0 && soundOn t) = true := by
  decide +kernel

/-- S12, T-U4: an unknown word reports itself and advances. -/
theorem test_unknown :
    (runs 0x0123 State.reset (fun t => t.pc = 0x202 && t.diag = .unknownOpcode 0x0123 && t.continues) &&
      runs 0x5121 State.reset (fun t => t.pc = 0x202 && t.diag = .unknownOpcode 0x5121)) = true := by decide +kernel

/-- T-F1, T-F2, T-F3: the fetch boundary. -/
theorem test_fetch_boundary :
    (runs 0x612A (State.reset.setPc 0x0FFE) (fun t => t.getV 1 = 0x2A && t.pc = 0x1000 && t.continues) &&
      nextIs (step (State.reset.setPc 0x0FFF)) (fun t => t = { halted with continues := false }) &&
      nextIs (step (State.reset.setPc 0x1000)) (fun t => t.halt && t.cause = .fetchFault 0x1000)) = true := by
  decide +kernel

/-- T-F4, T-F5. -/
theorem test_halted_until_reset :
    (nextIs (step halted) (fun t => t = halted) && nextIs (applyEvent .reset halted) (fun t => t = State.reset))
      = true := by decide +kernel

/-- T-K13, T-K14. -/
theorem test_tick :
    (nextIs (applyEvent .tick (State.reset.setDt 2)) (fun t => t.dt = 1 && t.st = 0) &&
      nextIs (applyEvent .tick ((State.reset.setDt 255).setSt 1)) (fun t => t.dt = 254 && t.st = 0 && !soundOn t))
      = true := by decide +kernel

/-- T-K15. -/
theorem test_setKey :
    nextIs (runEvents [.setKey 3 true, .setKey 3 true, .setKey 3 false] State.reset) (fun t => t = State.reset)
      = true := by decide +kernel

/-- T-F7, T-F10. -/
theorem test_load :
    (nextIs (applyEvent (.load [0x12, 0x34] 0x200) State.reset)
        (fun t => t.byteAt 0x200 = 0x12 && t.byteAt 0x201 = 0x34 && t.mem.length = 2) &&
      nextIs (applyEvent (.load [0xFF] 0) State.reset) (fun t => t.byteAt 0 = 0xFF)) = true := by decide +kernel

/-- T-F9, at the smallest size: a load one byte past the end has no transition. -/
theorem test_load_past_the_end : applyEvent (.load [1, 2] 4095) State.reset = .refused .loadPastEnd := rfl

/-! Witnesses: for each statement with hypotheses, concrete cases that meet them, one for each clause and at the
boundary of its range. -/

/-- The word `w` at the last address a fetch may start at. -/
def atTheEnd (w : Word) : State := placed w (State.reset.setPc 0x0FFE)

/-- For DecodedWordEncodesBack and, with the second clause, for the two sides of UnknownWordsAreTheListedOnes. -/
theorem witness_decoded_and_unknown_words :
    decodeWord 0x8FFE = .instr (.shl 15 15) ∧ unknownClass 0x8FFE = none ∧
    decodeWord 0x8FFF = .unknown 0x8FFF ∧ unknownClass 0x8FFF = some .class8 := by decide +kernel

/-- For DecoderIsTheOpcodeMap: words that the first row, the last row and no row select. -/
theorem witness_opcode_map_rows :
    ((opcodeMap.find? fun r => r.selects 0x00E0).map fun r => r.pattern) = some 0x00E0 ∧
    ((opcodeMap.find? fun r => r.selects 0xFF65).map fun r => r.pattern) = some 0xF065 ∧
    (opcodeMap.find? fun r => r.selects 0xFF66).isNone = true := by decide +kernel

/-- For StepRunsTheDecodedInstruction, at PC = 4094. -/
theorem witness_StepRunsTheDecodedInstruction :
    (atTheEnd 0x8014).halt = false ∧ (atTheEnd 0x8014).pc.toNat + 1 < 4096 ∧
    decodeWord (fetchWord (atTheEnd 0x8014) (atTheEnd 0x8014).pc.toNat) = .instr (.addReg 0 1) := by decide +kernel

/-- For UnknownWordOnlyAdvances and the unknown case of StepRunsTheDecodedInstruction, at PC = 4094. -/
theorem witness_UnknownWordOnlyAdvances :
    (atTheEnd 0x5121).halt = false ∧ (atTheEnd 0x5121).pc.toNat + 1 < 4096 ∧
    decodeWord (fetchWord (atTheEnd 0x5121) (atTheEnd 0x5121).pc.toNat) = .unknown 0x5121 := by decide +kernel

/-- For the first clause of FetchPastTheEndHalts, at PC = 4095. -/
theorem witness_FetchPastTheEndHalts_faults :
    (State.reset.setPc 0x0FFF).halt = false ∧ 4096 ≤ (State.reset.setPc 0x0FFF).pc.toNat + 1 := by decide +kernel

/-- For the second clause of FetchPastTheEndHalts, at PC = 4094. -/
theorem witness_FetchPastTheEndHalts_runs :
    (atTheEnd 0x6101).halt = false ∧ (atTheEnd 0x6101).pc.toNat + 1 < 4096 ∧ (atTheEnd 0x6101).cause = .none ∧
    nextIs (step (atTheEnd 0x6101)) (fun _ => true) = true := by decide +kernel

/-- For HaltedMachineStaysHalted: halted, a load that ends at the last byte, events other than reset that have a next
state (one of them a load). -/
theorem witness_HaltedMachineStaysHalted :
    halted.halt = true ∧ Memory.wf halted.mem = true ∧ 4094 + [0xAA#8, 0xBB#8].length ≤ 4096 ∧
    Event.load [0xAA, 0xBB] 4094 ≠ .reset ∧
    nextIs (applyEvent (.load [0xAA, 0xBB] 4094) halted) (fun t => t.byteAt 4095 = 0xBB && t.halt) = true ∧
    nextIs (applyEvent .tick halted) (fun t => t.halt) = true := by decide +kernel

/-- For ResetHoldsTheListedValues: a reset event in a halted state has a next state. -/
theorem witness_ResetHoldsTheListedValues : ∃ t, applyEvent .reset halted = .next t ∧ t.halt = false :=
  ⟨_, rfl, rfl⟩

theorem inv_of_parts {s : State} (mem : Memory.wf s.mem = true) (pc : s.pc.toNat ≤ 0x10FE)
    (stk : (s.stk.all fun w => w.toNat ≤ 4096) = true) (cause : causeAgrees s = true) (answer : s.continues = !s.halt)
    (diag : s.halt = true → s.diag = .none) : s.Inv :=
  ⟨mem, pc, fun w hw => by simpa using List.all_eq_true.mp stk w hw, cause, answer, diag⟩

/-- A state that meets the invariant at its bounds: PC and a return address as high as they get. -/
def edge : State := { placed 0xB000 State.reset with pc := 0x10FE, stk := [0x1000] }

theorem witness_inv_at_the_bounds : edge.Inv := inv_of_parts (by decide +kernel) (by decide +kernel)
  (by decide +kernel) (by decide +kernel) (by decide +kernel) (by decide +kernel)

theorem witness_inv_halted : halted.Inv := inv_of_parts (by decide +kernel) (by decide +kernel)
  (by decide +kernel) (by decide +kernel) (by decide +kernel) (by decide +kernel)

/-- For StepKeepsTheInvariant: a store at the end of memory. -/
theorem witness_StepKeepsTheInvariant :
    (placed 0xF055 (State.reset.setI 0x0FFF)).Inv ∧ ∃ t, step (placed 0xF055 (State.reset.setI 0x0FFF)) = .next t :=
  ⟨inv_of_parts (by decide +kernel) (by decide +kernel) (by decide +kernel) (by decide +kernel) (by decide +kernel)
    (by decide +kernel),
   (exists_next_of_nextIs (p := fun _ => true) (by decide +kernel)).imp fun _ h => h.1⟩

/-- For HostEventsKeepTheInvariant and EveryScheduleKeepsTheInvariant. -/
theorem witness_host_events :
    halted.Inv ∧ (∃ t, applyEvent (.load [0xAA] 4095) halted = .next t) ∧
    ∃ t, runEvents [.load [0xAA] 4095, .tick, .setKey 3 true, .step, .reset, .step] halted = .next t :=
  ⟨witness_inv_halted,
   (exists_next_of_nextIs (p := fun _ => true) (by decide +kernel)).imp fun _ h => h.1,
   (exists_next_of_nextIs (p := fun _ => true) (by decide +kernel)).imp fun _ h => h.1⟩

/-- For RetPopsOrFallsThrough: one entry, and none. -/
theorem witness_RetPopsOrFallsThrough :
    (State.reset.setStk [0x1000]).stk = [] ++ [0x1000] ∧ State.reset.stk = [] := ⟨rfl, rfl⟩

/-- `CALL nnn` at `a` and `RET` at `nnn`. -/
def callAndRet : State := withBytes 0xFFE [0x00, 0xEE] (placed 0x2FFE)

/-- For CallThenReturnComesBack, the callee at 4094. -/
theorem witness_CallThenReturnComesBack :
    callAndRet.halt = false ∧ callAndRet.pc.toNat + 1 < 4096 ∧ (0xFFE : Addr).toNat + 1 < 4096 ∧
    decodeWord (fetchWord callAndRet callAndRet.pc.toNat) = .instr (.call 0xFFE) ∧
    decodeWord (fetchWord callAndRet (0xFFE : Addr).toNat) = .instr .ret := by decide +kernel

/-- For the clauses `x ≠ vf` of the five flag writers of R155 to R159, and the case they leave to the flag. -/
theorem witness_flag_writers : (14 : Reg) ≠ vf ∧ ¬ (15 : Reg) ≠ vf := by decide

/-- For FontAddressPointsAtTheGlyph: a state with the font as reset left it, other memory written. -/
theorem witness_FontAddressPointsAtTheGlyph :
    ((List.range 80).all fun a => (withBytes 80 [0xAA]).byteAt a = State.reset.byteAt a) = true ∧
    (withBytes 80 [0xAA]).byteAt 80 = 0xAA := by decide +kernel

/-- For BcdStoresThreeDigits: `I` = 4093, 4094 and past the end. -/
theorem witness_BcdStoresThreeDigits :
    ((State.reset.setI 0x0FFD).i.toNat + 2 < 4096 ∧ Memory.wf (State.reset.setI 0x0FFD).mem = true) ∧
    4096 ≤ (State.reset.setI 0x0FFE).i.toNat + 2 ∧
    nextIs (exec (.ldB 2) (State.reset.setI 0xFFFF)) (fun t => t.cause = .dataAddressFault 0xFFFF) = true := by
  decide +kernel

/-- For StoreRegistersWritesTheRun, LoadRegistersReadsTheRun and StoreThenLoadKeepsTheRegisters: the last byte at 4095,
and at 4096. -/
theorem witness_register_transfers :
    ((State.reset.setI 0x0FF0).i.toNat + (15 : Reg).val < 4096 ∧ Memory.wf (State.reset.setI 0x0FF0).mem = true) ∧
    4096 ≤ (State.reset.setI 0x0FF1).i.toNat + (15 : Reg).val := by decide +kernel

/-- For the first clause of DataFaultIsExactAndContained: `I` at 4094, 4096 and 4097, where the two addresses of its
conclusion meet. -/
theorem witness_DataFaultIsExactAndContained_faults :
    Memory.wf (State.reset.setI 0x0FFE).mem = true ∧ dataBytes (.ldB 2) ≠ 0 ∧
    4096 < (State.reset.setI 0x0FFE).i.toNat + dataBytes (.ldB 2) ∧
    nextIs (exec (.ldRegs 0) (State.reset.setI 0x1000)) (fun t => t.cause = .dataAddressFault 0x1000) = true ∧
    nextIs (exec (.ldRegs 0) (State.reset.setI 0x1001)) (fun t => t.cause = .dataAddressFault 0x1001) = true := by
  decide +kernel

/-- For the second clause: `I` at 4093, and two instructions that access nothing wherever `I` is. -/
theorem witness_DataFaultIsExactAndContained_completes :
    (State.reset.setI 0x0FFD).i.toNat + dataBytes (.ldB 2) ≤ 4096 ∧ dataBytes .cls = 0 ∧
    nextIs (exec (.drw 0 0 0) (State.reset.setI 0xFFFF)) (fun t => !t.halt && t.continues) = true := by decide +kernel

/-- The store of R73: `LD [I],V1` with `I` at the next instruction, V0 and V1 holding `LD V3,0x77`. -/
def selfModifying : State := placed 0xF155 ((withRegs [(0, 0x63), (1, 0x77)]).setI 0x202)

theorem witness_StoredInstructionRunsNext :
    selfModifying.halt = false ∧ Memory.wf selfModifying.mem = true ∧ selfModifying.pc.toNat + 3 < 4096 ∧
    decodeWord (fetchWord selfModifying selfModifying.pc.toNat) = .instr (.stRegs 1) ∧ 1 ≤ (1 : Reg).val ∧
    selfModifying.i.toNat = selfModifying.pc.toNat + 2 ∧ selfModifying.i.toNat + (1 : Reg).val < 4096 ∧
    decodeWord (wordOfBytes (selfModifying.getV 0) (selfModifying.getV 1)) = .instr (.ldImm 3 0x77) := by
  decide +kernel

/-- For the ranges of DrawFlipsTheCoveredCells and DrawingTwiceRestoresTheDisplay: no row, the last sprite byte at 4095,
and at 4096. -/
theorem witness_DrawFlipsTheCoveredCells_ranges :
    (0 : Fin 16).val = 0 ∧ (State.reset.setI 0x0FFE).i.toNat + (2 : Fin 16).val ≤ 4096 ∧
    ((3 : Fin 16).val ≠ 0 ∧ 4096 < (State.reset.setI 0x0FFE).i.toNat + (3 : Fin 16).val) ∧
    (0 : Reg) ≠ vf ∧ (1 : Reg) ≠ vf := by decide +kernel

/-- One sprite row `80` at 0x300. -/
def oneDot : State := withBytes 0x300 [0x80] (State.reset.setI 0x300)

/-- A covered cell that is not lit, and one that is. -/
theorem witness_spriteCovers :
    (spriteCovers (oneDot.getV 0) (oneDot.getV 1) (spriteAt oneDot 1) 0 0 ∧ oneDot.cell 0 0 = false) ∧
    (withLit [(0, 0)] oneDot).cell 0 0 = true :=
  ⟨⟨⟨0, 0, by decide +kernel, by decide, by decide +kernel, by decide +kernel, by decide +kernel⟩, by decide +kernel⟩,
    by decide +kernel⟩

/-- The second and third conclusions of DrawFlipsTheCoveredCells and of DrawingTwiceRestoresTheDisplay at that sprite:
no covered cell lit, then every covered cell lit (T-D7). -/
theorem witness_drawing_twice :
    nextIs (runEvents [.step, .step] (withBytes 0x202 [0xD0, 0x11] (placed 0xD011 oneDot)))
      (fun t => litCells t = 0 && t.getV 15 = 1) = true ∧
    nextIs (runEvents [.step, .step] (withBytes 0x202 [0xD0, 0x11] (placed 0xD011 (withLit [(0, 0)] oneDot))))
      (fun t => litCells t = 1 && t.getV 15 = 0) = true := by decide +kernel

/-- For KeySkipsTestTheLowDigit. -/
theorem witness_KeySkipsTestTheLowDigit :
    (10 : Key).val = ((withRegs [(2, 0x1A)]).getV 2).toNat % 16 ∧ (15 : Key).val = ((withRegs [(2, 0xFF)]).getV 2).toNat % 16 := by
  decide +kernel

/-- For KeyWaitTakesTheLowestKeyOrWaits: key 4 the lowest of three, and no key. -/
theorem witness_KeyWaitTakesTheLowestKeyOrWaits :
    ((withKeys [15, 9, 4]).k[(4 : Key)] = true ∧ ∀ j : Key, j < 4 → (withKeys [15, 9, 4]).k[j] = false) ∧
    ∀ k : Key, State.reset.k[k] = false := by decide +kernel

/-- For LoadCopiesItsBytesOrIsRefused: two bytes that end at 4095, and two that would end at 4096. -/
theorem witness_LoadCopiesItsBytesOrIsRefused :
    Memory.wf State.reset.mem = true ∧ 4094 + [1#8, 2#8].length ≤ 4096 ∧ 4096 < 4095 + [1#8, 2#8].length := by
  decide +kernel

/-- For OnlyDestinationsAndVfChange: an addition changes its destination and VF. -/
theorem witness_OnlyDestinationsAndVfChange :
    ∃ t, exec (.addReg 0 1) (withRegs [(0, 250), (1, 10)]) = .next t ∧
      (decide (t.getV 0 ≠ (withRegs [(0, 250), (1, 10)]).getV 0) &&
        decide (t.getV vf ≠ (withRegs [(0, 250), (1, 10)]).getV vf)) = true :=
  exists_next_of_nextIs (by decide +kernel)

/-- For FlagWritersLeaveZeroOrOne: one that accesses no memory, and a draw that ends at the last byte. -/
theorem witness_FlagWritersLeaveZeroOrOne :
    (writesFlag (.sub 15 15) = true ∧ dataBytes (.sub 15 15) = 0) ∧
    (writesFlag (.drw 0 1 2) = true ∧ (State.reset.setI 0x0FFE).i.toNat + dataBytes (.drw 0 1 2) ≤ 4096) := by
  decide +kernel

/-- For DedicatedStateHasOnlyItsWriters: an instruction that writes none of it, and a store that changes its own byte. -/
theorem witness_DedicatedStateHasOnlyItsWriters :
    (writesIndex (.ldImm 0 1) = false ∧ writesStack (.ldImm 0 1) = false ∧ writesDisplay (.ldImm 0 1) = false ∧
      writesMemory (.ldImm 0 1) = false ∧ nextIs (exec (.ldImm 0 1) State.reset) (fun _ => true) = true) ∧
    nextIs (exec (.stRegs 0) ((withRegs [(0, 0xAA)]).setI 0x0FFF)) (fun t => t.byteAt 0xFFF = 0xAA) = true := by
  decide +kernel

end Sys2Proof.Tests
end

section
/-! Every host event, and so every schedule of them, keeps the machine's invariant (00_scope.md R8; 10_state.md R26,
R30). The state is followed through its updates: `State.Inv` for a state between events, `State.Executing` for one in
which an instruction has been fetched and has not yet moved PC. -/

namespace Sys2Proof.Machine

/-! The invariant, read for a running machine, and the updates that keep it. -/

/-- R30: a running machine has no cause. -/
theorem State.Inv.cause_eq_none {s : State} (h : s.Inv) (hr : s.halt = false) : s.cause = .none := by
  obtain ⟨_, _, _, hc, _⟩ := h
  cases hs : s.cause <;> simp [causeAgrees, hs, hr] at hc ⊢

theorem State.Inv.mem_wf {s : State} (h : s.Inv) : Memory.wf s.mem = true := h.1

theorem State.Inv.setMem {s : State} (h : s.Inv) {m : List Host.Cell} (hm : Memory.wf m = true) : (s.setMem m).Inv :=
  ⟨hm, h.2⟩

theorem State.Inv.writeInRange {s : State} (h : s.Inv) (a : Nat) (bytes : List Byte) : (writeInRange a bytes s).Inv := by
  rw [writeInRange_eq]
  exact h.setMem (writeInRange_wf a bytes h.mem_wf)

/-- R210: a tick writes only the timers, which the invariant does not read. -/
theorem State.Inv.tick {s : State} (h : s.Inv) : (tick s).Inv := h

/-- R212: a key change writes only the keys, which the invariant does not read. -/
theorem State.Inv.setKey {s : State} (h : s.Inv) (k : Key) (b : Bool) : (setKey k b s).Inv := h

theorem resetEvent_inv (s : State) : (resetEvent s).Inv :=
  ⟨reset_memory_wf, Nat.le_of_ble_eq_true rfl, nofun, rfl, rfl, fun _ => rfl⟩

theorem State.Inv.setPc {s : State} (h : s.Inv) (hr : s.halt = false) {w : Word} (hw : w.toNat ≤ 0x10FE) :
    (s.setPc w).Inv := by
  have hc : causeAgrees (s.setPc w) = true := by simp [causeAgrees, h.cause_eq_none hr, hr]
  obtain ⟨hm, _, hstk, _, hrest⟩ := h
  exact ⟨hm, hw, hstk, hc, hrest⟩

theorem State.Inv.setStk {s : State} (h : s.Inv) {l : List Word} (hl : ∀ w ∈ l, w.toNat ≤ 4096) : (s.setStk l).Inv := by
  obtain ⟨hm, hpc, _, hrest⟩ := h
  exact ⟨hm, hpc, hl, hrest⟩

theorem State.Inv.stk_le {s : State} (h : s.Inv) : ∀ w ∈ s.stk, w.toNat ≤ 4096 := by
  obtain ⟨_, _, hstk, _⟩ := h
  exact hstk

/-- R97, R121: a running machine may report any diagnostic. -/
theorem State.Inv.setDiag {s : State} (h : s.Inv) (hr : s.halt = false) (d : Diag) : (s.setDiag d).Inv := by
  obtain ⟨hm, hpc, hstk, hc, ha, _⟩ := h
  exact ⟨hm, hpc, hstk, hc, ha, by simp [hr]⟩

/-- R94, D14: a step of a halted machine. -/
theorem State.Inv.stayHalted {s : State} (h : s.Inv) (hh : s.halt = true) : s.stayHalted.Inv := by
  obtain ⟨hm, hpc, hstk, hc, _, _⟩ := h
  exact ⟨hm, hpc, hstk, hc, by simp [hh], fun _ => rfl⟩

/-- R201: the fetch fault. -/
theorem State.Inv.raiseFetch {s : State} (h : s.Inv) (hf : fetchLegal s = false) : (raiseFetch s).Inv := by
  obtain ⟨hm, hpc, hstk, _⟩ := h
  have hpc' := (fetchLegal_eq_false_iff s).1 hf
  have hc : causeAgrees (Machine.raiseFetch s) = true := by
    simp [causeAgrees]
    omega
  exact ⟨hm, hpc, hstk, hc, rfl, fun _ => rfl⟩

/-! A state in which an instruction is under way. -/

/-- The invariant of a state whose instruction has been fetched (R94): it meets the machine's own, runs, has PC where
the fetch was legal (R201), and has reported nothing. -/
def State.Executing (s : State) : Prop :=
  s.Inv ∧ s.halt = false ∧ s.pc.toNat + 1 < 4096 ∧ s.diag = .none

theorem State.Inv.beginStep {s : State} (h : s.Inv) (hr : s.halt = false) (hf : fetchLegal s = true) :
    s.beginStep.Executing := by
  obtain ⟨hm, hpc, hstk, hc, _⟩ := h
  exact ⟨⟨hm, hpc, hstk, hc, by simp [hr], fun _ => rfl⟩, hr, (fetchLegal_iff s).1 hf, rfl⟩

namespace State.Executing

variable {s : State}

theorem inv (h : s.Executing) : s.Inv := h.1

theorem running (h : s.Executing) : s.halt = false := by
  obtain ⟨_, hr, _⟩ := h
  exact hr

theorem pc_lt (h : s.Executing) : s.pc.toNat + 1 < 4096 := by
  obtain ⟨_, _, hpc, _⟩ := h
  exact hpc

/-! Updates of what `Executing` does not read. -/

theorem setV (h : s.Executing) {r : Reg} {b : Byte} : (s.setV r b).Executing := h

theorem setI (h : s.Executing) {w : Word} : (s.setI w).Executing := h

theorem setFb (h : s.Executing) {fb : Vector (Vector Bool 64) 32} : (s.setFb fb).Executing := h

theorem setDt (h : s.Executing) {b : Byte} : (s.setDt b).Executing := h

theorem setSt (h : s.Executing) {b : Byte} : (s.setSt b).Executing := h

theorem drew (h : s.Executing) {n : Nat} : (s.drew n).Executing := h

theorem setRegsFrom (h : s.Executing) {k : Nat} {bytes : List Byte} : (setRegsFrom k bytes s).Executing := by
  rw [setRegsFrom_eq]
  exact h

theorem writeInRange (h : s.Executing) {a : Nat} {bytes : List Byte} : (writeInRange a bytes s).Executing := by
  obtain ⟨hinv, hrest⟩ := h
  exact ⟨hinv.writeInRange a bytes, by simpa using hrest⟩

/-! The locations a data address fault leaves unspecified (R202). -/

theorem scrambleBytes (h : s.Executing) {a n : Nat} : (scrambleBytes a n s).Executing := h.writeInRange.drew

theorem scrambleRegs (h : s.Executing) {x : Reg} : (scrambleRegs x s).Executing := h.setRegsFrom.drew

theorem scrambleDisplay (h : s.Executing) : (scrambleDisplay s).Executing := h.setFb.setV.drew

/-! The ways an instruction ends. -/

theorem setPc (h : s.Executing) {w : Word} (hw : w.toNat ≤ 0x10FE) : (s.setPc w).Inv := h.inv.setPc h.running hw

theorem next (h : s.Executing) : s.next.Inv := by
  have hpc := h.pc_lt
  exact h.setPc (by bv_omega)

theorem skipIf (h : s.Executing) {c : Bool} : (s.skipIf c).Inv := by
  have hpc := h.pc_lt
  rw [State.skipIf_eq]
  exact h.setPc (by split <;> bv_omega)

theorem report_next (h : s.Executing) {d : Diag} : (s.setDiag d).next.Inv := h.next.setDiag h.running d

/-- R202: the first data address out of range is 4096 or `I`, and fits 16 bits. -/
theorem raiseDataAddress (h : s.Executing) (i : Word) : (raiseDataAddress (max i.toNat 4096) s).Inv := by
  obtain ⟨⟨hm, hpc, hstk, _⟩, _, _, hd⟩ := h
  have hc : causeAgrees (Machine.raiseDataAddress (max i.toNat 4096) s) = true := by
    simp [causeAgrees]
    omega
  exact ⟨hm, hpc, hstk, hc, rfl, fun _ => hd⟩

end State.Executing

/-! The targets of the jumps. -/

theorem zextAddr_toNat (nnn : Addr) : (zextAddr nnn).toNat = nnn.toNat := by
  have := nnn.isLt
  simp [zextAddr]
  omega

theorem zextAddr_le (nnn : Addr) : (zextAddr nnn).toNat ≤ 0x10FE := by
  have := nnn.isLt
  rw [zextAddr_toNat]
  omega

/-- R128, R26: the highest target of `JP V0,nnn`, 0xFFF + 0xFF, is the bound on PC. -/
theorem jpV0_target_le (nnn : Addr) (b : Byte) : (zextAddr nnn + zextByte b).toNat ≤ 0x10FE := by
  have := nnn.isLt
  have := b.isLt
  rw [BitVec.toNat_add, zextAddr_toNat, zextByte, BitVec.zeroExtend, BitVec.toNat_setWidth]
  omega

/-! What every outcome of an event has to satisfy. -/

/-- The next state, where there is one, meets the invariant. -/
def NextMeetsInv (r : Result) : Prop := ∀ t, r = .next t → t.Inv

theorem NextMeetsInv.next {t : State} (h : t.Inv) : NextMeetsInv (.next t) := by
  rintro _ ⟨⟩
  exact h

theorem NextMeetsInv.fault (f : Fault) : NextMeetsInv (.fault f) := nofun

theorem NextMeetsInv.refused (r : Refusal) : NextMeetsInv (.refused r) := nofun

/-! The instructions that end in more than one way. -/

section
variable {s : State} (h : s.Executing)
include h

/-- R121: a return address is at most 4096, below the bound on PC. -/
theorem execRet_meetsInv : NextMeetsInv (execRet s) := by
  rcases List.eq_nil_or_concat' s.stk with hnil | ⟨l, w, hstk⟩
  · rw [execRet, pop_nil hnil]
    exact .next h.report_next
  · have hle : ∀ v ∈ l ++ [w], v.toNat ≤ 4096 := by simpa only [hstk] using h.inv.stk_le
    have hl : (s.setStk l).Inv := h.inv.setStk fun v hv => hle v (List.mem_append_left _ hv)
    have hw := hle w (List.mem_append_right _ (List.mem_singleton_self w))
    rw [execRet, pop_concat hstk]
    exact .next (hl.setPc h.running (by omega))

/-- R123: the address of the instruction after a fetched one is at most 4096. -/
theorem execCall_meetsInv (nnn : Addr) : NextMeetsInv (execCall nnn s) := by
  rw [execCall, if_pos (stackHasRoom_eq s)]
  have hret : ∀ w ∈ s.stk ++ [s.pc + 2], w.toNat ≤ 4096 := by
    have hpc := h.pc_lt
    intro w hw
    rcases List.mem_append.1 hw with hw | hw
    · exact h.inv.stk_le w hw
    · rw [List.mem_singleton.1 hw]
      bv_omega
  exact .next ((h.inv.setStk hret).setPc h.running (zextAddr_le nnn))

theorem execDrw_meetsInv (x y : Reg) (n : Fin 16) : NextMeetsInv (execDrw x y n s) := by
  by_cases hr : n.val = 0 ∨ s.i.toNat + n.val ≤ 4096
  · rw [execDrw_in_range x y n s hr]
    exact .next h.setFb.setV.next
  · rw [execDrw_out_of_range x y n s (by omega) (by omega)]
    exact .next (h.scrambleDisplay.raiseDataAddress s.i)

theorem execLdB_meetsInv (x : Reg) : NextMeetsInv (execLdB x s) := by
  rcases Nat.lt_or_ge (s.i.toNat + 2) 4096 with hr | hr
  · rw [execLdB_in_range x s hr]
    exact .next h.writeInRange.next
  · rw [execLdB_out_of_range x s hr]
    exact .next (h.scrambleBytes.raiseDataAddress s.i)

theorem execStRegs_meetsInv (x : Reg) : NextMeetsInv (execStRegs x s) := by
  rcases Nat.lt_or_ge (s.i.toNat + x.val) 4096 with hr | hr
  · rw [execStRegs_in_range x s hr]
    exact .next h.writeInRange.next
  · rw [execStRegs_out_of_range x s hr]
    exact .next (h.scrambleBytes.raiseDataAddress s.i)

theorem execLdRegs_meetsInv (x : Reg) : NextMeetsInv (execLdRegs x s) := by
  rcases Nat.lt_or_ge (s.i.toNat + x.val) 4096 with hr | hr
  · rw [execLdRegs_in_range x s hr]
    exact .next h.setRegsFrom.next
  · rw [execLdRegs_out_of_range x s hr]
    exact .next (h.scrambleRegs.raiseDataAddress s.i)

/-- R192: with no key pressed, the instruction is under way as before. -/
theorem execLdVxK_meetsInv (x : Reg) : NextMeetsInv (execLdVxK x s) := by
  unfold execLdVxK
  split
  · exact .next h.setV.next
  · exact .next h.inv

/-- Every instruction, once fetched, ends in a state that meets the invariant. -/
theorem exec_meetsInv (i : Instr) : NextMeetsInv (exec i s) :=
  match i with
  | .ret => execRet_meetsInv h
  | .call nnn => execCall_meetsInv h nnn
  | .jp nnn => .next (h.setPc (zextAddr_le nnn))
  | .jpV0 nnn => .next (h.setPc (jpV0_target_le nnn (s.getV 0)))
  | .seImm .. | .sneImm .. | .seReg .. | .sneReg .. | .skp _ | .sknp _ => .next h.skipIf
  | .ldImm .. | .addImm .. | .ldReg .. | .orReg .. | .andReg .. | .xorReg .. | .ldVxDt _ => .next h.setV.next
  | .addReg .. | .sub .. | .shr .. | .subn .. | .shl .. => .next h.setV.setV.next
  | .rnd .. => .next h.drew.setV.next
  | .ldI _ | .addI _ | .ldF _ => .next h.setI.next
  | .ldDtVx _ => .next h.setDt.next
  | .ldStVx _ => .next h.setSt.next
  | .ldVxK x => execLdVxK_meetsInv h x
  | .cls => .next h.setFb.next
  | .drw x y n => execDrw_meetsInv h x y n
  | .ldB x => execLdB_meetsInv h x
  | .stRegs x => execStRegs_meetsInv h x
  | .ldRegs x => execLdRegs_meetsInv h x

end

/-! Steps, events and schedules. -/

section
variable {s : State} (h : s.Inv)
include h

/-- R94: a step stays halted, or runs what it fetched, or latches the fetch fault. -/
theorem step_meetsInv : NextMeetsInv (step s) := by
  unfold step
  split_ifs with hh hf
  · exact .next (h.stayHalted hh)
  · have he : s.beginStep.Executing := h.beginStep (by simpa using hh) hf
    split
    · exact exec_meetsInv he _
    · exact .next he.report_next
  · exact .next (h.raiseFetch (by simpa using hf))

theorem load_meetsInv (bytes : List Byte) (start : Nat) : NextMeetsInv (load bytes start s) := by
  unfold load
  split_ifs
  · exact .next (h.writeInRange start bytes)
  · exact .refused _

theorem applyEvent_meetsInv (e : Event) : NextMeetsInv (applyEvent e s) :=
  match e with
  | .reset => .next (resetEvent_inv s)
  | .load bytes start => load_meetsInv h bytes start
  | .step => step_meetsInv h
  | .tick => .next h.tick
  | .setKey k b => .next (h.setKey k b)

end

theorem runEvents_meetsInv (es : List Event) {s : State} (h : s.Inv) : NextMeetsInv (runEvents es s) := by
  induction es generalizing s with
  | nil => exact .next h
  | cons e rest ih =>
    rw [runEvents]
    split
    next s' he => exact ih (applyEvent_meetsInv h e s' he)
    next f _ => exact .fault f
    next r _ => exact .refused r

/-- Settles O15, by cases on the event; a step by cases on the instruction it fetches. -/
theorem hostEventsKeepTheInvariant : Obligations.HostEventsKeepTheInvariant :=
  fun e _ t h ht => applyEvent_meetsInv h e t ht

/-- Settles O16, by induction on the schedule: each event keeps the invariant. -/
theorem everyScheduleKeepsTheInvariant : Obligations.EveryScheduleKeepsTheInvariant :=
  fun es _ t h ht => runEvents_meetsInv es h t ht

end Sys2Proof.Machine
end

section
/-! Reset (10_state.md R34), and what it and every step keep (R26, R30). -/

namespace Sys2Proof.Machine

/-- Settles O14, by cases on what the step does: stay halted, run what it fetched, or latch the fetch fault. -/
theorem stepKeepsTheInvariant : Obligations.StepKeepsTheInvariant :=
  fun _ t h ht => step_meetsInv h t ht

/-- At power-on the machine is as a `reset` event leaves it. -/
theorem resetEvent_reset : resetEvent State.reset = State.reset := rfl

/-- Settles O13: the power-on state is one that a `reset` event leaves. -/
theorem resetMeetsTheInvariant : Obligations.ResetMeetsTheInvariant := resetEvent_inv State.reset

theorem resetEvent_byteAt (s : State) (a : Nat) : (resetEvent s).byteAt a = initialByte a := rfl

theorem font_length : Config.hw.font.length = 80 := rfl

theorem initialByte_of_lt_80 {a : Nat} (h : a < 80) : initialByte a = Config.hw.font.getD a 0 := by
  rw [initialByte, font_length, Config.hw_fontBase, if_pos (by omega), Nat.sub_zero]

theorem initialByte_of_80_le {a : Nat} (h : 80 ≤ a) : initialByte a = 0 := by
  rw [initialByte, font_length, Config.hw_fontBase, if_neg (by omega)]

theorem resetEvent_getV (s : State) (r : Reg) : (resetEvent s).getV r = 0 := Vector.getElem_replicate r.isLt

theorem resetEvent_cell (s : State) (r : Fin 32) (c : Fin 64) : (resetEvent s).cell r c = false := by
  simp [State.cell, resetEvent, State.reset]

theorem resetEvent_key (s : State) (k : Key) : (resetEvent s).k[k] = false := Vector.getElem_replicate k.isLt

/-- Settles O12: the power-on state and every state after a `reset` event are `resetEvent` of some state, whose fields
are read one by one. -/
theorem resetHoldsTheListedValues : Obligations.ResetHoldsTheListedValues := by
  intro t ht
  obtain ⟨s, rfl⟩ : ∃ s, t = resetEvent s := by
    rcases ht with rfl | ⟨s, hs⟩
    · exact ⟨State.reset, resetEvent_reset.symm⟩
    · cases hs
      exact ⟨s, rfl⟩
  exact ⟨resetEvent_getV s, rfl, rfl, rfl, resetEvent_cell s, resetEvent_key s, rfl, rfl, rfl, rfl,
    fun a ha => (resetEvent_byteAt s a).trans (initialByte_of_lt_80 ha),
    fun a ha _ => (resetEvent_byteAt s a).trans (initialByte_of_80_le ha)⟩

end Sys2Proof.Machine
end

section
/-! The frame of an update: one rule per update of the state says when a state within a frame is still within it
afterwards. A frame of an instruction is then composed of the rules of its updates. -/

namespace Sys2Proof.Machine

/-! A store leaves every other address alone, also in a memory that is not in canonical form. -/

theorem memGet_memCons_ne (rest : List Host.Cell) {a c : Nat} (b : Byte) (h : c ≠ a) :
    memGet (memCons a b rest) c = memGet rest c := by
  unfold memCons
  split_ifs
  · rfl
  · rw [memGet, if_neg h.symm]

theorem memGet_memPut_ne (m : List Host.Cell) {a c : Nat} (b : Byte) (h : c ≠ a) :
    memGet (memPut m a b) c = memGet m c := by
  induction m with
  | nil => exact memGet_memCons_ne [] b h
  | cons q m ih =>
    obtain ⟨a', b'⟩ := q
    rw [memPut]
    split_ifs with hlt heq
    · exact memGet_memCons_ne _ b h
    · rw [memGet_memCons_ne m b h, memGet, if_neg (heq ▸ h.symm)]
    · rw [memGet, memGet, ih]

theorem State.setByte_byteAt_ne (s : State) {a c : Nat} (b : Byte) (h : c ≠ a) :
    (s.setByte a b).byteAt c = s.byteAt c := memGet_memPut_ne s.mem b h

theorem writeInRange_byteAt_of_outside (a : Nat) (bytes : List Byte) (s : State) {c : Nat}
    (h : c < a ∨ a + bytes.length ≤ c) : (writeInRange a bytes s).byteAt c = s.byteAt c := by
  induction bytes generalizing a s with
  | nil => rfl
  | cons b bs ih =>
    rw [List.length_cons] at h
    rw [writeInRange, ih _ _ (by omega)]
    split_ifs
    · exact s.setByte_byteAt_ne b (by omega)
    · rfl

namespace KeepsAllBut

variable {c : Changes} {s t : State}

theorem refl : KeepsAllBut c s s := by simp [KeepsAllBut]

section
variable (h : KeepsAllBut c s t)
include h

theorem setV {r : Reg} {b : Byte} (hr : r ∈ c.regs) : KeepsAllBut c s (t.setV r b) := by
  obtain ⟨hv, hrest⟩ := h
  refine ⟨fun q hq => ?_, hrest⟩
  rw [State.setV_getV_ne _ _ _ _ (ne_of_mem_of_not_mem hr hq).symm, hv q hq]

theorem setRegsFrom {k : Nat} {bytes : List Byte}
    (hr : ∀ q : Reg, k ≤ q.val → q.val < k + bytes.length → q ∈ c.regs) :
    KeepsAllBut c s (setRegsFrom k bytes t) := by
  obtain ⟨hv, hrest⟩ := h
  refine ⟨fun q hq => ?_, by simpa using hrest⟩
  rw [setRegsFrom_getV, if_neg fun hk => hq (hr q hk.1 hk.2), hv q hq]

theorem setI {w : Word} (hc : c.i = true) : KeepsAllBut c s (t.setI w) := by
  simp_all [KeepsAllBut]

theorem setPc {w : Word} (hc : c.pc = true) : KeepsAllBut c s (t.setPc w) := by
  simp_all [KeepsAllBut]

theorem next (hc : c.pc = true) : KeepsAllBut c s t.next := h.setPc hc

theorem skipIf {b : Bool} (hc : c.pc = true) : KeepsAllBut c s (t.skipIf b) := by
  rw [State.skipIf_eq]
  exact h.setPc hc

theorem setStk {l : List Word} (hc : c.stk = true) : KeepsAllBut c s (t.setStk l) := by
  simp_all [KeepsAllBut]

theorem setFb {fb : Vector (Vector Bool 64) 32} (hc : c.fb = true) : KeepsAllBut c s (t.setFb fb) := by
  simp_all [KeepsAllBut]

theorem setDt {b : Byte} (hc : c.dt = true) : KeepsAllBut c s (t.setDt b) := by
  simp_all [KeepsAllBut]

theorem setSt {b : Byte} (hc : c.st = true) : KeepsAllBut c s (t.setSt b) := by
  simp_all [KeepsAllBut]

theorem setDiag {d : Diag} (hc : c.diag = true) : KeepsAllBut c s (t.setDiag d) := by
  simp_all [KeepsAllBut]

theorem drew {n : Nat} (hc : c.free = true) : KeepsAllBut c s (t.drew n) := by
  simp_all [KeepsAllBut]

theorem writeInRange {a : Nat} {bytes : List Byte} (hlo : c.memFrom ≤ a)
    (hhi : a + bytes.length ≤ c.memFrom + c.memLen) : KeepsAllBut c s (writeInRange a bytes t) := by
  obtain ⟨hv, hi, hpc, hstk, hfb, hk, hdt, hst, hhalt, hmem, hrest⟩ := h
  refine ⟨by simpa using hv, by simpa using hi, by simpa using hpc, by simpa using hstk, by simpa using hfb,
    by simpa using hk, by simpa using hdt, by simpa using hst, by simpa using hhalt, fun q hq => ?_,
    by simpa using hrest⟩
  rw [writeInRange_byteAt_of_outside a bytes t (by omega), hmem q hq]

theorem raiseDataAddress {a : Nat} (hh : c.halt = true) (hc : c.continues = true) :
    KeepsAllBut c s (raiseDataAddress a t) := by
  simp_all [KeepsAllBut]

/-! The locations a data address fault leaves unspecified (R202). -/

theorem scrambleBytes {a n : Nat} (hlo : c.memFrom ≤ a) (hhi : a + n ≤ c.memFrom + c.memLen)
    (hf : c.free = true) : KeepsAllBut c s (scrambleBytes a n t) :=
  (h.writeInRange hlo (by simpa [freeBytes] using hhi)).drew hf

theorem scrambleRegs {x : Reg} (hr : ∀ q : Reg, q ≤ x → q ∈ c.regs) (hf : c.free = true) :
    KeepsAllBut c s (scrambleRegs x t) := by
  refine (h.setRegsFrom fun q _ hq => hr q ?_).drew hf
  rw [freeBytes, List.length_map, List.length_range] at hq
  exact Fin.le_def.2 (by omega)

theorem scrambleDisplay (hr : vf ∈ c.regs) (hd : c.fb = true) (hf : c.free = true) :
    KeepsAllBut c s (scrambleDisplay t) := ((h.setFb hd).setV hr).drew hf

end

end KeepsAllBut

end Sys2Proof.Machine
end

section
/-! The frame of every instruction (10_state.md R21, R22, R23, R27, R28, R33, R36): each changes only what the spec
lists it as a writer of, whether it completes or ends in a data address fault. -/

namespace Sys2Proof.Machine

/-- R29: the instruction that writes DT. -/
def writesDelayTimer (i : Instr) : Bool :=
  match i with
  | .ldDtVx _ => true
  | _ => false

/-- R29: the instruction that writes ST. -/
def writesSoundTimer (i : Instr) : Bool :=
  match i with
  | .ldStVx _ => true
  | _ => false

theorem writesDelayTimer_eq_false {i : Instr} (h : ∀ x, i ≠ .ldDtVx x) : writesDelayTimer i = false := by
  unfold writesDelayTimer
  split
  · exact absurd rfl (h _)
  · rfl

theorem writesSoundTimer_eq_false {i : Instr} (h : ∀ x, i ≠ .ldStVx x) : writesSoundTimer i = false := by
  unfold writesSoundTimer
  split
  · exact absurd rfl (h _)
  · rfl

/-- What the spec lists an instruction as a writer of. Not bounded: PC, HALT and CAUSE, the two output latches, and the
count of free values. -/
def instrChanges (i : Instr) (s : State) : Changes where
  regs := (List.finRange 16).filter fun r => isDestination i r || (r = vf && writesFlag i)
  i := writesIndex i
  pc := true
  stk := writesStack i
  fb := writesDisplay i
  dt := writesDelayTimer i
  st := writesSoundTimer i
  halt := true
  memFrom := dataAddress s 0
  memLen := if writesMemory i then dataBytes i else 0
  continues := true
  diag := true
  free := true

theorem mem_instrChanges_regs {i : Instr} {s : State} {r : Reg} :
    r ∈ (instrChanges i s).regs ↔ isDestination i r = true ∨ (r = vf ∧ writesFlag i = true) := by
  simp [instrChanges]

theorem destination_mem {i : Instr} {s : State} {r : Reg} (h : isDestination i r = true) :
    r ∈ (instrChanges i s).regs := mem_instrChanges_regs.2 (.inl h)

theorem vf_mem {i : Instr} {s : State} (h : writesFlag i = true) : vf ∈ (instrChanges i s).regs :=
  mem_instrChanges_regs.2 (.inr ⟨rfl, h⟩)

theorem instrChanges_memLen_of_writes_no_memory {i : Instr} (s : State) (h : writesMemory i = false) :
    (instrChanges i s).memLen = 0 := if_neg (by simp [h])

theorem instrChanges_memLen_le (i : Instr) (s : State) : (instrChanges i s).memLen ≤ dataBytes i := by
  unfold instrChanges
  split_ifs
  · exact le_rfl
  · exact Nat.zero_le _

theorem dataAddress_eq_add (s : State) (k : Nat) : dataAddress s k = dataAddress s 0 + k := rfl

/-- The next state, where there is one, is within the frame. -/
def NextKeepsAllBut (c : Changes) (s : State) (r : Result) : Prop := ∀ t, r = .next t → KeepsAllBut c s t

theorem NextKeepsAllBut.next {c : Changes} {s t : State} (h : KeepsAllBut c s t) : NextKeepsAllBut c s (.next t) := by
  rintro _ ⟨⟩
  exact h

/-! What the shared endings of instructions change. -/

theorem setV_next_keepsAllBut {i : Instr} {s t : State} {x : Reg} {b : Byte} (h : KeepsAllBut (instrChanges i s) s t)
    (hx : isDestination i x = true) : KeepsAllBut (instrChanges i s) s (t.setV x b).next :=
  (h.setV (destination_mem hx)).next rfl

/-- R150: a flag writer's result, then its flag. -/
theorem finishWithFlag_keepsAllBut {i : Instr} {s : State} {x : Reg} {result flag : Byte}
    (hx : isDestination i x = true) (hf : writesFlag i = true) :
    KeepsAllBut (instrChanges i s) s (finishWithFlag x result flag s) :=
  ((KeepsAllBut.refl.setV (destination_mem hx)).setV (vf_mem hf)).next rfl

/-! The instructions that end in more than one way. -/

section
variable (s : State)

theorem execRet_keepsAllBut : NextKeepsAllBut (instrChanges .ret s) s (execRet s) := by
  rcases List.eq_nil_or_concat' s.stk with hnil | ⟨l, w, hstk⟩
  · rw [execRet, pop_nil hnil]
    exact .next ((KeepsAllBut.refl.setDiag rfl).next rfl)
  · rw [execRet, pop_concat hstk]
    exact .next ((KeepsAllBut.refl.setStk rfl).setPc rfl)

theorem execCall_keepsAllBut (nnn : Addr) : NextKeepsAllBut (instrChanges (.call nnn) s) s (execCall nnn s) := by
  rw [execCall, if_pos (stackHasRoom_eq s)]
  exact .next ((KeepsAllBut.refl.setStk rfl).setPc rfl)

theorem execLdVxK_keepsAllBut (x : Reg) : NextKeepsAllBut (instrChanges (.ldVxK x) s) s (execLdVxK x s) := by
  unfold execLdVxK
  split
  · exact .next (setV_next_keepsAllBut .refl (decide_eq_true rfl))
  · exact .next .refl

theorem execDrw_keepsAllBut (x y : Reg) (n : Fin 16) :
    NextKeepsAllBut (instrChanges (.drw x y n) s) s (execDrw x y n s) := by
  have hvf : vf ∈ (instrChanges (.drw x y n) s).regs := vf_mem rfl
  by_cases hr : n.val = 0 ∨ s.i.toNat + n.val ≤ 4096
  · rw [execDrw_in_range x y n s hr]
    exact .next (((KeepsAllBut.refl.setFb rfl).setV hvf).next rfl)
  · rw [execDrw_out_of_range x y n s (by omega) (by omega)]
    exact .next ((KeepsAllBut.refl.scrambleDisplay hvf rfl rfl).raiseDataAddress rfl rfl)

theorem execLdB_keepsAllBut (x : Reg) : NextKeepsAllBut (instrChanges (.ldB x) s) s (execLdB x s) := by
  rcases Nat.lt_or_ge (s.i.toNat + 2) 4096 with hr | hr
  · rw [execLdB_in_range x s hr]
    exact .next ((KeepsAllBut.refl.writeInRange le_rfl le_rfl).next rfl)
  · rw [execLdB_out_of_range x s hr]
    exact .next ((KeepsAllBut.refl.scrambleBytes le_rfl le_rfl rfl).raiseDataAddress rfl rfl)

theorem execStRegs_keepsAllBut (x : Reg) : NextKeepsAllBut (instrChanges (.stRegs x) s) s (execStRegs x s) := by
  rcases Nat.lt_or_ge (s.i.toNat + x.val) 4096 with hr | hr
  · have hlen : s.i.toNat + (regsUpTo x s).length ≤ s.i.toNat + (x.val + 1) := by rw [regsUpTo_length]
    rw [execStRegs_in_range x s hr]
    exact .next ((KeepsAllBut.refl.writeInRange le_rfl hlen).next rfl)
  · rw [execStRegs_out_of_range x s hr]
    exact .next ((KeepsAllBut.refl.scrambleBytes le_rfl le_rfl rfl).raiseDataAddress rfl rfl)

theorem execLdRegs_keepsAllBut (x : Reg) : NextKeepsAllBut (instrChanges (.ldRegs x) s) s (execLdRegs x s) := by
  have hmem : ∀ q : Reg, q ≤ x → q ∈ (instrChanges (.ldRegs x) s).regs := fun q hq =>
    destination_mem (decide_eq_true hq)
  rcases Nat.lt_or_ge (s.i.toNat + x.val) 4096 with hr | hr
  · rw [execLdRegs_in_range x s hr]
    refine .next ((KeepsAllBut.refl.setRegsFrom fun q _ hq => hmem q ?_).next rfl)
    rw [List.length_map, List.length_range] at hq
    exact Fin.le_def.2 (by omega)
  · rw [execLdRegs_out_of_range x s hr]
    exact .next ((KeepsAllBut.refl.scrambleRegs hmem rfl).raiseDataAddress rfl rfl)

/-- Every instruction changes at most what it is listed as a writer of. -/
theorem exec_keepsAllBut (i : Instr) : NextKeepsAllBut (instrChanges i s) s (exec i s) :=
  match i with
  | .ret => execRet_keepsAllBut s
  | .call nnn => execCall_keepsAllBut s nnn
  | .jp _ | .jpV0 _ => .next (KeepsAllBut.refl.setPc rfl)
  | .seImm .. | .sneImm .. | .seReg .. | .sneReg .. | .skp _ | .sknp _ => .next (KeepsAllBut.refl.skipIf rfl)
  | .ldImm .. | .addImm .. | .ldReg .. | .orReg .. | .andReg .. | .xorReg .. | .ldVxDt _ =>
    .next (setV_next_keepsAllBut .refl (decide_eq_true rfl))
  | .addReg .. | .sub .. | .shr .. | .subn .. | .shl .. =>
    .next (finishWithFlag_keepsAllBut (decide_eq_true rfl) rfl)
  | .rnd .. => .next (setV_next_keepsAllBut (KeepsAllBut.refl.drew rfl) (decide_eq_true rfl))
  | .ldI _ | .addI _ | .ldF _ => .next ((KeepsAllBut.refl.setI rfl).next rfl)
  | .ldDtVx _ => .next ((KeepsAllBut.refl.setDt rfl).next rfl)
  | .ldStVx _ => .next ((KeepsAllBut.refl.setSt rfl).next rfl)
  | .ldVxK x => execLdVxK_keepsAllBut s x
  | .cls => .next ((KeepsAllBut.refl.setFb rfl).next rfl)
  | .drw x y n => execDrw_keepsAllBut s x y n
  | .ldB x => execLdB_keepsAllBut s x
  | .stRegs x => execStRegs_keepsAllBut s x
  | .ldRegs x => execLdRegs_keepsAllBut s x

end

/-- Settles O55, from the frame of the instruction. -/
theorem onlyDestinationsAndVfChange : Obligations.OnlyDestinationsAndVfChange := by
  intro i s t r ht hne
  obtain ⟨hregs, _⟩ := exec_keepsAllBut s i t ht
  by_contra hr
  exact hne (hregs r (mt mem_instrChanges_regs.1 hr))

/-- Settles O57, from the frame of the instruction; one that writes no memory has an empty range there. -/
theorem dedicatedStateHasOnlyItsWriters : Obligations.DedicatedStateHasOnlyItsWriters := by
  intro i s t ht
  obtain ⟨_, hi, _, hstk, hfb, hk, hdt, hst, _, hmem, _⟩ := exec_keepsAllBut s i t ht
  refine ⟨hi, hstk, hfb, hk rfl, fun h => hdt (writesDelayTimer_eq_false h),
    fun h => hst (writesSoundTimer_eq_false h), fun hw a => hmem a ?_, fun _ a ha => hmem a ?_⟩
  · have := instrChanges_memLen_of_writes_no_memory s hw
    omega
  · have hfrom : (instrChanges i s).memFrom = dataAddress s 0 := rfl
    have hlen := instrChanges_memLen_le i s
    rw [dataAddress_eq_add s (dataBytes i)] at ha
    omega

end Sys2Proof.Machine
end

section
/-! The flag writers (10_state.md R22). -/

namespace Sys2Proof.Machine

theorem flagByte_eq_zero_or_one (c : Bool) : flagByte c = 0 ∨ flagByte c = 1 := by
  cases c
  · exact .inl rfl
  · exact .inr rfl

/-- D9, D24: a flag written last is what VF holds, whatever was written before it. -/
theorem next_of_flag_written_last (s : State) (c : Bool) :
    ∃ t, (.next (s.setV vf (flagByte c)).next : Result) = .next t ∧ (t.getV vf = 0 ∨ t.getV vf = 1) := by
  refine ⟨_, rfl, ?_⟩
  rw [State.next, State.setPc_getV, State.setV_getV_same]
  exact flagByte_eq_zero_or_one c

/-- Settles O56, by cases on the flag writer: each ends with its flag written to VF. -/
theorem flagWritersLeaveZeroOrOne : Obligations.FlagWritersLeaveZeroOrOne := by
  intro i s hf hr
  unfold writesFlag at hf
  split at hf
  case h_6 x y n =>
    rw [exec, execDrw_in_range x y n s hr]
    exact next_of_flag_written_last _ _
  case h_7 => exact absurd hf Bool.false_ne_true
  all_goals exact next_of_flag_written_last _ _

end Sys2Proof.Machine
end

section
/-! Memory (20_memory.md): the fetched word (R64), what a load and a store write (R69, R73), the font (R77). -/

namespace Sys2Proof.Machine

/-- Settles O6, from the number of a word of two bytes. -/
theorem fetchedWordIsBigEndian : Obligations.FetchedWordIsBigEndian :=
  fun s a => wordOfBytes_toNat (s.byteAt a) (s.byteAt (a + 1))

/-! What a run of bytes written in range reads as. -/

theorem writeInRange_byteAt_add {s : State} (h : Memory.wf s.mem = true) {a : Nat} {bytes : List Byte}
    (hr : a + bytes.length ≤ 4096) {j : Nat} (hj : j < bytes.length) :
    (writeInRange a bytes s).byteAt (a + j) = bytes.getD j 0 := by
  rw [writeInRange_byteAt a bytes h, if_pos (by omega), Nat.add_sub_cancel_left]

/-- R174: the registers `V0` to `Vx`, stored at `a`, read back in order. -/
theorem storedRegs_byteAt {s : State} (h : Memory.wf s.mem = true) {a : Nat} {x r : Reg} (hr : a + x.val < 4096)
    (hx : r ≤ x) : (writeInRange a (regsUpTo x s) s).byteAt (a + r.val) = s.getV r := by
  have hlen := regsUpTo_length x s
  have hle : r.val ≤ x.val := hx
  rw [writeInRange_byteAt_add h (by omega) (by omega), regsUpTo_getD x s r hx]

/-! Load (R69). -/

theorem load_in_range {bytes : List Byte} {start : Nat} (s : State) (h : start + bytes.length ≤ 4096) :
    load bytes start s = .next (writeInRange start bytes s) := if_pos h

theorem load_past_end {bytes : List Byte} {start : Nat} (s : State) (h : 4096 < start + bytes.length) :
    load bytes start s = .refused .loadPastEnd := if_neg (Nat.not_le.2 h)

/-- Settles O54, by the two sides of the end of memory. -/
theorem loadCopiesItsBytesOrIsRefused : Obligations.LoadCopiesItsBytesOrIsRefused := by
  refine fun bytes start s hwf => ⟨fun hr => ?_, fun hr t ht => ?_⟩
  · exact ⟨_, load_in_range s hr, fun j hj => writeInRange_byteAt_add hwf hr hj,
      KeepsAllBut.refl.writeInRange le_rfl le_rfl⟩
  · rw [applyEvent, load_past_end s hr] at ht
    cases ht

/-! The font (R62, R77, R172). -/

theorem glyphAddress_toNat (d : Fin 16) : (glyphAddress d).toNat = d.val * 5 := by
  have := d.isLt
  rw [glyphAddress, Config.hw_fontBase, Config.hw_glyphBytes, BitVec.toNat_ofNat]
  omega

/-- Settles O37: the five bytes of a digit's glyph lie below 80, where memory reads as the font. -/
theorem fontAddressPointsAtTheGlyph : Obligations.FontAddressPointsAtTheGlyph := by
  refine fun x s hfont => ⟨_, rfl, fun j hj => ?_⟩
  have hd := (lowDigit (s.getV x)).isLt
  have hlt : (lowDigit (s.getV x)).val * 5 + j < 80 := by omega
  calc s.byteAt ((glyphAddress (lowDigit (s.getV x))).toNat + j)
      = s.byteAt ((lowDigit (s.getV x)).val * 5 + j) := by rw [glyphAddress_toNat]
    _ = initialByte ((lowDigit (s.getV x)).val * 5 + j) := hfont _ hlt
    _ = Config.hw.font.getD ((s.getV x).toNat % 16 * 5 + j) 0 := initialByte_of_lt_80 hlt

/-! The store that writes the next instruction (R73). -/

/-- R94: a step that may fetch runs the instruction it fetched. -/
theorem step_of_decodes_instr {s : State} {i : Instr} (hr : s.halt = false) (hpc : s.pc.toNat + 1 < 4096)
    (hd : decodeWord (fetchWord s s.pc.toNat) = .instr i) : step s = exec i s.beginStep := by
  rw [step, if_neg (by simp [hr]), if_pos ((fetchLegal_iff s).2 hpc), hd]

theorem fetchWord_storedRegs {s : State} (h : Memory.wf s.mem = true) {a : Nat} {x : Reg} (hx : 1 ≤ x.val)
    (hr : a + x.val < 4096) :
    fetchWord (writeInRange a (regsUpTo x s) s).next a = wordOfBytes (s.getV 0) (s.getV 1) :=
  congrArg₂ wordOfBytes (storedRegs_byteAt h hr (Fin.zero_le x)) (storedRegs_byteAt h hr (r := 1) hx)

/-- Settles O43: the store leaves PC at `I`, where the word of `V0` and `V1` now stands. -/
theorem storedInstructionRunsNext : Obligations.StoredInstructionRunsNext := by
  intro s x i hrun hwf hpc hst hx hi hr hd
  have hfirst : step s = .next (writeInRange s.i.toNat (regsUpTo x s.beginStep) s.beginStep).next :=
    (step_of_decodes_instr hrun (by omega) hst).trans (execStRegs_in_range x s.beginStep hr)
  have hat : (writeInRange s.i.toNat (regsUpTo x s.beginStep) s.beginStep).next.pc.toNat = s.i.toNat := by
    rw [State.next, State.setPc_pc, writeInRange_pc, State.beginStep_pc]
    bv_omega
  refine ⟨_, hfirst, step_of_decodes_instr ?_ (by omega) ?_⟩
  · rw [State.next, State.setPc_halt, writeInRange_halt, State.beginStep_halt, hrun]
  · rw [hat, fetchWord_storedRegs (s := s.beginStep) hwf hx hr]
    exact hd

end Sys2Proof.Machine
end

section
/-! The encoding (30_encoding.md R91, R92, R95 to R98): fields and formats, the opcode table's rows, and what the
decoder makes of a word, said once (`decodeInstr_reads`). -/

namespace Sys2Proof

/-! The fields of a word laid out in each format (R91, R92). -/

section
variable (op : Nibble) (nnn : Addr) (x y : Reg) (nn : Byte) (n : Nibble)

@[simp] theorem fieldOp_formatA : fieldOp (formatA op nnn) = op := by
  apply BitVec.eq_of_toNat_eq
  rw [fieldOp_toNat, formatA_toNat]
  omega

@[simp] theorem fieldNNN_formatA : fieldNNN (formatA op nnn) = nnn := by
  apply BitVec.eq_of_toNat_eq
  rw [fieldNNN_toNat, formatA_toNat]
  omega

@[simp] theorem fieldOp_formatXI : fieldOp (formatXI op x nn) = op := by
  apply BitVec.eq_of_toNat_eq
  rw [fieldOp_toNat, formatXI_toNat]
  omega

@[simp] theorem fieldX_formatXI : fieldX (formatXI op x nn) = x := by
  apply Fin.ext
  rw [fieldX_val, formatXI_toNat]
  omega

@[simp] theorem fieldNN_formatXI : fieldNN (formatXI op x nn) = nn := by
  apply BitVec.eq_of_toNat_eq
  rw [fieldNN_toNat, formatXI_toNat]
  omega

/-- Formats XI and XF lay their fields out alike (R92). -/
@[simp] theorem formatXF_eq_formatXI : formatXF op x nn = formatXI op x nn := rfl

@[simp] theorem fieldOp_formatXYN : fieldOp (formatXYN op x y n) = op := by
  apply BitVec.eq_of_toNat_eq
  rw [fieldOp_toNat, formatXYN_toNat]
  omega

@[simp] theorem fieldX_formatXYN : fieldX (formatXYN op x y n) = x := by
  apply Fin.ext
  rw [fieldX_val, formatXYN_toNat]
  omega

@[simp] theorem fieldY_formatXYN : fieldY (formatXYN op x y n) = y := by
  apply Fin.ext
  rw [fieldY_val, formatXYN_toNat]
  omega

@[simp] theorem fieldN_formatXYN : fieldN (formatXYN op x y n) = n.toFin := by
  apply Fin.ext
  rw [fieldN_val, formatXYN_toNat, BitVec.val_toFin n]
  omega

end

/-! A word put together again from its fields. -/

theorem formatA_fields (w : Word) : formatA (fieldOp w) (fieldNNN w) = w := by
  apply BitVec.eq_of_toNat_eq
  rw [formatA_toNat, fieldOp_toNat, fieldNNN_toNat]
  omega

theorem formatXI_fields (w : Word) : formatXI (fieldOp w) (fieldX w) (fieldNN w) = w := by
  apply BitVec.eq_of_toNat_eq
  rw [formatXI_toNat, fieldOp_toNat, fieldX_val, fieldNN_toNat]
  omega

theorem formatXYN_fields (w : Word) : formatXYN (fieldOp w) (fieldX w) (fieldY w) (.ofFin (fieldN w)) = w := by
  apply BitVec.eq_of_toNat_eq
  have hn : (BitVec.ofFin (w := 4) (fieldN w)).toNat = w.toNat % 16 := fieldN_val w
  rw [formatXYN_toNat, fieldOp_toNat, fieldX_val, fieldY_val, hn]
  omega

/-! Encode, then decode (R95). -/

theorem decodeInstr_encode (i : Instr) : decodeInstr (encode i) = some i := by
  cases i
  case cls | ret => decide
  case jp | call | ldI | jpV0 | seImm | sneImm | ldImm | addImm | rnd | drw => simp [encode, decodeInstr]
  case seReg => simp [encode, decodeInstr, decodeClass5]
  case ldReg | orReg | andReg | xorReg | addReg | sub | shr | subn | shl => simp [encode, decodeInstr, decodeClass8]
  case sneReg => simp [encode, decodeInstr, decodeClass9]
  case skp | sknp => simp [encode, decodeInstr, decodeClassE]
  case ldVxDt | ldVxK | ldDtVx | ldStVx | addI | ldF | ldB | stRegs | ldRegs =>
    simp [encode, decodeInstr, decodeClassF]

theorem decodeWord_of_some {w : Word} {i : Instr} (h : decodeInstr w = some i) : decodeWord w = .instr i := by
  rw [decodeWord, h]

theorem decodeWord_of_none {w : Word} (h : decodeInstr w = none) : decodeWord w = .unknown w := by
  rw [decodeWord, h]

/-- Settles O1, by cases on the instruction: its format lays its operands out in the fields the decoder reads. -/
theorem encodedInstructionDecodesBack : Obligations.EncodedInstructionDecodesBack :=
  fun i => decodeWord_of_some (decodeInstr_encode i)

/-- Settles O5: the words are encodings, and encodings decode back; 0x0123 is none. -/
theorem exampleWordsDecode : Obligations.ExampleWordsDecode :=
  have decodes := encodedInstructionDecodesBack
  ⟨decodes .ret, decodes .cls, decodes (.seImm 3 0x2A), decodes (.jpV0 0x300), decodes (.rnd 3 0x0F),
    decodes (.subn 1 2), decodes (.stRegs 2), decodes (.ldB 0), decodes (.drw 0 1 1), decodes (.skp 2),
    decodes (.ldVxK 3), decodeWord_of_none rfl⟩

/-! What each of the table's masks keeps of a word: whole fields (R95). -/

theorem and_opMask (w : Word) : w &&& 0xF000 = formatA (fieldOp w) 0 := by
  have hop : fieldOp (w &&& 0xF000) = fieldOp w := BitVec.extractLsb'_and.trans BitVec.and_allOnes
  have hnnn : fieldNNN (w &&& 0xF000) = 0 := BitVec.extractLsb'_and.trans BitVec.and_zero
  rw [← formatA_fields (w &&& 0xF000), hop, hnnn]

theorem and_opNNMask (w : Word) : w &&& 0xF0FF = formatXI (fieldOp w) 0 (fieldNN w) := by
  have hop : fieldOp (w &&& 0xF0FF) = fieldOp w := BitVec.extractLsb'_and.trans BitVec.and_allOnes
  have hx : fieldX (w &&& 0xF0FF) = 0 := congrArg BitVec.toFin (BitVec.extractLsb'_and.trans BitVec.and_zero)
  have hnn : fieldNN (w &&& 0xF0FF) = fieldNN w := BitVec.extractLsb'_and.trans BitVec.and_allOnes
  rw [← formatXI_fields (w &&& 0xF0FF), hop, hx, hnn]

theorem and_opNMask (w : Word) : w &&& 0xF00F = formatXYN (fieldOp w) 0 0 (.ofFin (fieldN w)) := by
  have hop : fieldOp (w &&& 0xF00F) = fieldOp w := BitVec.extractLsb'_and.trans BitVec.and_allOnes
  have hx : fieldX (w &&& 0xF00F) = 0 := congrArg BitVec.toFin (BitVec.extractLsb'_and.trans BitVec.and_zero)
  have hy : fieldY (w &&& 0xF00F) = 0 := congrArg BitVec.toFin (BitVec.extractLsb'_and.trans BitVec.and_zero)
  have hn : fieldN (w &&& 0xF00F) = fieldN w := congrArg BitVec.toFin (BitVec.extractLsb'_and.trans BitVec.and_allOnes)
  rw [← formatXYN_fields (w &&& 0xF00F), hop, hx, hy, hn]

/-! A row of the table: the fields it tests. Each rule takes the row's mask, and that its pattern lies within it. -/

namespace OpcodeRow

variable {r q : OpcodeRow} {w : Word}

theorem selects_iff : r.selects w = true ↔ w &&& r.mask = r.pattern := decide_eq_true_iff

theorem selects_iff_eq (hm : r.mask = 0xFFFF := by rfl) : r.selects w = true ↔ w = r.pattern := by
  rw [selects_iff, hm, show w &&& 0xFFFF = w from BitVec.and_allOnes]

theorem selects_iff_op (hm : r.mask = 0xF000 := by rfl) (hp : r.pattern &&& r.mask = r.pattern := by rfl) :
    r.selects w = true ↔ fieldOp w = fieldOp r.pattern := by
  rw [selects_iff, ← hp, hm, and_opMask, and_opMask, fieldOp_formatA]
  exact ⟨fun h => by simpa using congrArg fieldOp h, congrArg (formatA · 0)⟩

theorem selects_iff_op_n (hm : r.mask = 0xF00F := by rfl) (hp : r.pattern &&& r.mask = r.pattern := by rfl) :
    r.selects w = true ↔ fieldOp w = fieldOp r.pattern ∧ fieldN w = fieldN r.pattern := by
  rw [selects_iff, ← hp, hm, and_opNMask, and_opNMask, fieldOp_formatXYN, fieldN_formatXYN]
  constructor
  · exact fun h => ⟨by simpa using congrArg fieldOp h, by simpa using congrArg fieldN h⟩
  · rintro ⟨hop, hn⟩
    rw [hop, hn]

theorem selects_iff_op_nn (hm : r.mask = 0xF0FF := by rfl) (hp : r.pattern &&& r.mask = r.pattern := by rfl) :
    r.selects w = true ↔ fieldOp w = fieldOp r.pattern ∧ fieldNN w = fieldNN r.pattern := by
  rw [selects_iff, ← hp, hm, and_opNNMask, and_opNNMask, fieldOp_formatXI, fieldNN_formatXI]
  constructor
  · exact fun h => ⟨by simpa using congrArg fieldOp h, by simpa using congrArg fieldNN h⟩
  · rintro ⟨hop, hnn⟩
    rw [hop, hnn]

/-- Two rows that select one word agree where both test it. -/
theorem patterns_agree (hr : r.selects w = true) (hq : q.selects w = true) :
    r.pattern &&& q.mask = q.pattern &&& r.mask := by
  rw [← selects_iff.1 hr, ← selects_iff.1 hq, BitVec.and_assoc, BitVec.and_assoc, BitVec.and_comm r.mask]

end OpcodeRow

theorem pattern_within_mask : ∀ {r : OpcodeRow}, r ∈ opcodeMap → r.pattern &&& r.mask = r.pattern := by
  decide

/-! What a row builds from a word it selects has that word as its encoding. -/

namespace OpcodeRow

/-- The row's instructions encode to the words they are built from. -/
def BuildsPreimage (r : OpcodeRow) : Prop := ∀ w, r.selects w = true → encode (r.build w) = w

namespace BuildsPreimage

variable {r : OpcodeRow}

/-- Rows of one word. -/
theorem whole (hb : ∀ w, encode (r.build w) = r.pattern) (hm : r.mask = 0xFFFF := by rfl) : r.BuildsPreimage := by
  intro w hw
  rw [hb, (selects_iff_eq hm).1 hw]

/-- Rows of format A. -/
theorem opNNN (hb : ∀ w, encode (r.build w) = formatA (fieldOp r.pattern) (fieldNNN w))
    (hm : r.mask = 0xF000 := by rfl) (hp : r.pattern &&& r.mask = r.pattern := by rfl) : r.BuildsPreimage := by
  intro w hw
  rw [hb, ← (selects_iff_op hm hp).1 hw, formatA_fields]

/-- Rows of format XI. -/
theorem opXNN (hb : ∀ w, encode (r.build w) = formatXI (fieldOp r.pattern) (fieldX w) (fieldNN w))
    (hm : r.mask = 0xF000 := by rfl) (hp : r.pattern &&& r.mask = r.pattern := by rfl) : r.BuildsPreimage := by
  intro w hw
  rw [hb, ← (selects_iff_op hm hp).1 hw, formatXI_fields]

/-- The row of format XYN. -/
theorem opXYN (hb : ∀ w, encode (r.build w) = formatXYN (fieldOp r.pattern) (fieldX w) (fieldY w) (.ofFin (fieldN w)))
    (hm : r.mask = 0xF000 := by rfl) (hp : r.pattern &&& r.mask = r.pattern := by rfl) : r.BuildsPreimage := by
  intro w hw
  rw [hb, ← (selects_iff_op hm hp).1 hw, formatXYN_fields]

/-- Rows of format XY. -/
theorem opXY
    (hb : ∀ w, encode (r.build w) =
      formatXYN (fieldOp r.pattern) (fieldX w) (fieldY w) (.ofFin (fieldN r.pattern)))
    (hm : r.mask = 0xF00F := by rfl) (hp : r.pattern &&& r.mask = r.pattern := by rfl) : r.BuildsPreimage := by
  intro w hw
  obtain ⟨hop, hn⟩ := (selects_iff_op_n hm hp).1 hw
  rw [hb, ← hop, ← hn, formatXYN_fields]

/-- Rows of format XF. -/
theorem opXF (hb : ∀ w, encode (r.build w) = formatXF (fieldOp r.pattern) (fieldX w) (fieldNN r.pattern))
    (hm : r.mask = 0xF0FF := by rfl) (hp : r.pattern &&& r.mask = r.pattern := by rfl) : r.BuildsPreimage := by
  intro w hw
  obtain ⟨hop, hnn⟩ := (selects_iff_op_nn hm hp).1 hw
  rw [hb, ← hop, ← hnn, formatXF_eq_formatXI, formatXI_fields]

end BuildsPreimage

end OpcodeRow

theorem opcodeMapLow_buildsPreimage : opcodeMapLow.Forall OpcodeRow.BuildsPreimage :=
  ⟨.whole fun _ => rfl, .whole fun _ => rfl, .opNNN fun _ => rfl, .opNNN fun _ => rfl, .opXNN fun _ => rfl,
    .opXNN fun _ => rfl, .opXY fun _ => rfl, .opXNN fun _ => rfl, .opXNN fun _ => rfl⟩

theorem opcodeMapMid_buildsPreimage : opcodeMapMid.Forall OpcodeRow.BuildsPreimage := by
  refine ⟨?_, ?_, ?_, ?_, ?_, ?_, ?_, ?_, ?_, ?_⟩ <;> exact .opXY fun _ => rfl

theorem opcodeMapHigh_buildsPreimage : opcodeMapHigh.Forall OpcodeRow.BuildsPreimage := by
  refine ⟨.opNNN fun _ => rfl, .opNNN fun _ => rfl, .opXNN fun _ => rfl, .opXYN fun _ => rfl,
    ?_, ?_, ?_, ?_, ?_, ?_, ?_, ?_, ?_, ?_, ?_⟩ <;> exact .opXF fun _ => rfl

theorem buildsPreimage_of_mem {r : OpcodeRow} (hr : r ∈ opcodeMap) : r.BuildsPreimage := by
  obtain (hlow | hmid) | hhigh := (List.mem_append.1 hr).imp_left List.mem_append.1
  · exact List.forall_iff_forall_mem.1 opcodeMapLow_buildsPreimage r hlow
  · exact List.forall_iff_forall_mem.1 opcodeMapMid_buildsPreimage r hmid
  · exact List.forall_iff_forall_mem.1 opcodeMapHigh_buildsPreimage r hhigh

/-- R95: a row that selects a word says what it decodes to. -/
theorem decodeInstr_of_selects {r : OpcodeRow} {w : Word} (hr : r ∈ opcodeMap) (hw : r.selects w = true) :
    decodeInstr w = some (r.build w) := by
  have he := buildsPreimage_of_mem hr w hw
  calc decodeInstr w = decodeInstr (encode (r.build w)) := by rw [he]
    _ = some (r.build w) := decodeInstr_encode (r.build w)

theorem opcodeMap_pairwise_disjoint :
    opcodeMap.Pairwise (fun r q => ∀ w : Word, ¬ (r.selects w = true ∧ q.selects w = true)) := by
  have hpatterns : opcodeMap.Pairwise (fun r q => r.pattern &&& q.mask ≠ q.pattern &&& r.mask) := by decide
  exact hpatterns.imp fun hne w ⟨hr, hq⟩ => hne (OpcodeRow.patterns_agree hr hq)

/-! What the decoder makes of a word: one case per branch, the branches in the order of the table's rows. -/

/-- A row selects the word and is read, or nothing is and the word is in one of R98's classes. -/
def ReadsRowOrUnknown (w : Word) (d : Option Instr) : Prop :=
  (∃ r ∈ opcodeMap, r.selects w = true ∧ d = some (r.build w)) ∨ (d = none ∧ unknownClass w ≠ none)

namespace ReadsRowOrUnknown

variable {w : Word}

theorem row (k : Fin 34) (h : (opcodeMap.get k).selects w = true) :
    ReadsRowOrUnknown w (some ((opcodeMap.get k).build w)) :=
  .inl ⟨_, List.get_mem _ _, h, rfl⟩

/-- Rows of one word. -/
theorem wholeRow (k : Fin 34) (hop : (fieldOp w).toNat = (fieldOp (opcodeMap.get k).pattern).toNat)
    (hnnn : (fieldNNN w).toNat = (fieldNNN (opcodeMap.get k).pattern).toNat)
    (hm : (opcodeMap.get k).mask = 0xFFFF := by rfl) : ReadsRowOrUnknown w (some ((opcodeMap.get k).build w)) := by
  refine row k ((OpcodeRow.selects_iff_eq hm).2 ?_)
  rw [← formatA_fields w, BitVec.eq_of_toNat_eq hop, BitVec.eq_of_toNat_eq hnnn, formatA_fields]

/-- Rows that test the opcode digit. -/
theorem opRow (k : Fin 34) (hop : (fieldOp w).toNat = (fieldOp (opcodeMap.get k).pattern).toNat)
    (hm : (opcodeMap.get k).mask = 0xF000 := by rfl) : ReadsRowOrUnknown w (some ((opcodeMap.get k).build w)) :=
  row k ((OpcodeRow.selects_iff_op hm (pattern_within_mask (List.get_mem _ _))).2 (BitVec.eq_of_toNat_eq hop))

/-- Rows that test the opcode digit and the function digit. -/
theorem opNRow (k : Fin 34) (hop : (fieldOp w).toNat = (fieldOp (opcodeMap.get k).pattern).toNat)
    (hn : (fieldN w).val = (fieldN (opcodeMap.get k).pattern).val) (hm : (opcodeMap.get k).mask = 0xF00F := by rfl) :
    ReadsRowOrUnknown w (some ((opcodeMap.get k).build w)) :=
  row k ((OpcodeRow.selects_iff_op_n hm (pattern_within_mask (List.get_mem _ _))).2
    ⟨BitVec.eq_of_toNat_eq hop, Fin.ext hn⟩)

/-- Rows that test the opcode digit and the function byte. -/
theorem opNNRow (k : Fin 34) (hop : (fieldOp w).toNat = (fieldOp (opcodeMap.get k).pattern).toNat)
    (hnn : (fieldNN w).toNat = (fieldNN (opcodeMap.get k).pattern).toNat)
    (hm : (opcodeMap.get k).mask = 0xF0FF := by rfl) : ReadsRowOrUnknown w (some ((opcodeMap.get k).build w)) :=
  row k ((OpcodeRow.selects_iff_op_nn hm (pattern_within_mask (List.get_mem _ _))).2
    ⟨BitVec.eq_of_toNat_eq hop, BitVec.eq_of_toNat_eq hnn⟩)

theorem unknown (h : unknownClass w ≠ none) : ReadsRowOrUnknown w none := .inr ⟨rfl, h⟩

end ReadsRowOrUnknown

section
variable {w : Word}

theorem decodeClass0_reads (hop : (fieldOp w).toNat = 0x0) : ReadsRowOrUnknown w (decodeClass0 w) := by
  unfold decodeClass0
  split
  next hnnn => exact .wholeRow 0 hop hnnn
  next hnnn => exact .wholeRow 1 hop hnnn
  next =>
    refine .unknown ((unknownClass_eq_none w).not.2 ?_)
    simp only [fieldOp_toNat, fieldNNN_toNat, imp_false] at *
    omega

theorem decodeClass5_reads (hop : (fieldOp w).toNat = 0x5) : ReadsRowOrUnknown w (decodeClass5 w) := by
  unfold decodeClass5
  split
  next hn => exact .opNRow 6 hop hn
  next =>
    refine .unknown ((unknownClass_eq_none w).not.2 ?_)
    simp only [fieldOp_toNat, fieldN_val, imp_false] at *
    omega

theorem decodeClass8_reads (hop : (fieldOp w).toNat = 0x8) : ReadsRowOrUnknown w (decodeClass8 w) := by
  unfold decodeClass8
  split
  next hn => exact .opNRow 9 hop hn
  next hn => exact .opNRow 10 hop hn
  next hn => exact .opNRow 11 hop hn
  next hn => exact .opNRow 12 hop hn
  next hn => exact .opNRow 13 hop hn
  next hn => exact .opNRow 14 hop hn
  next hn => exact .opNRow 15 hop hn
  next hn => exact .opNRow 16 hop hn
  next hn => exact .opNRow 17 hop hn
  next =>
    refine .unknown ((unknownClass_eq_none w).not.2 ?_)
    simp only [fieldOp_toNat, fieldN_val, imp_false] at *
    omega

theorem decodeClass9_reads (hop : (fieldOp w).toNat = 0x9) : ReadsRowOrUnknown w (decodeClass9 w) := by
  unfold decodeClass9
  split
  next hn => exact .opNRow 18 hop hn
  next =>
    refine .unknown ((unknownClass_eq_none w).not.2 ?_)
    simp only [fieldOp_toNat, fieldN_val, imp_false] at *
    omega

theorem decodeClassE_reads (hop : (fieldOp w).toNat = 0xE) : ReadsRowOrUnknown w (decodeClassE w) := by
  unfold decodeClassE
  split
  next hnn => exact .opNNRow 23 hop hnn
  next hnn => exact .opNNRow 24 hop hnn
  next =>
    refine .unknown ((unknownClass_eq_none w).not.2 ?_)
    simp only [fieldOp_toNat, fieldNN_toNat, imp_false] at *
    omega

theorem decodeClassF_reads (hop : (fieldOp w).toNat = 0xF) : ReadsRowOrUnknown w (decodeClassF w) := by
  unfold decodeClassF
  split
  next hnn => exact .opNNRow 25 hop hnn
  next hnn => exact .opNNRow 26 hop hnn
  next hnn => exact .opNNRow 27 hop hnn
  next hnn => exact .opNNRow 28 hop hnn
  next hnn => exact .opNNRow 29 hop hnn
  next hnn => exact .opNNRow 30 hop hnn
  next hnn => exact .opNNRow 31 hop hnn
  next hnn => exact .opNNRow 32 hop hnn
  next hnn => exact .opNNRow 33 hop hnn
  next =>
    refine .unknown ((unknownClass_eq_none w).not.2 ?_)
    simp only [fieldOp_toNat, fieldNN_toNat, imp_false] at *
    omega

/-- The decoder reads a row that selects the word, or the word is in one of R98's classes and it reads nothing. -/
theorem decodeInstr_reads (w : Word) : ReadsRowOrUnknown w (decodeInstr w) := by
  unfold decodeInstr
  split
  next hop => exact decodeClass0_reads hop
  next hop => exact .opRow 2 hop
  next hop => exact .opRow 3 hop
  next hop => exact .opRow 4 hop
  next hop => exact .opRow 5 hop
  next hop => exact decodeClass5_reads hop
  next hop => exact .opRow 7 hop
  next hop => exact .opRow 8 hop
  next hop => exact decodeClass8_reads hop
  next hop => exact decodeClass9_reads hop
  next hop => exact .opRow 19 hop
  next hop => exact .opRow 20 hop
  next hop => exact .opRow 21 hop
  next hop => exact .opRow 22 hop
  next hop => exact decodeClassE_reads hop
  next hop => exact decodeClassF_reads hop
  next =>
    have := (fieldOp w).isLt
    simp only [imp_false] at *
    omega

end

theorem encode_of_decodeInstr {w : Word} {i : Instr} (h : decodeInstr w = some i) : encode i = w := by
  obtain ⟨r, hr, hw, hd⟩ | ⟨hd, _⟩ := decodeInstr_reads w
  · obtain rfl : r.build w = i := Option.some.inj (hd.symm.trans h)
    exact buildsPreimage_of_mem hr w hw
  · exact absurd (hd.symm.trans h) nofun

theorem decodeInstr_of_decodeWord {w : Word} {i : Instr} (h : decodeWord w = .instr i) : decodeInstr w = some i := by
  unfold decodeWord at h
  split at h
  · cases h
    assumption
  · cases h

/-- Settles O2: the row that was read builds the word's preimage. -/
theorem decodedWordEncodesBack : Obligations.DecodedWordEncodesBack :=
  fun _ _ h => encode_of_decodeInstr (decodeInstr_of_decodeWord h)

/-- Settles O3: a row that selects a word says what it decodes to, and a word that decodes has such a row. -/
theorem decoderIsTheOpcodeMap : Obligations.DecoderIsTheOpcodeMap := by
  refine ⟨rfl, opcodeMap_pairwise_disjoint, fun w => ?_⟩
  split
  next r hfind =>
    have hw : r.selects w = true := List.find?_some (p := fun q : OpcodeRow => q.selects w) hfind
    exact decodeWord_of_some (decodeInstr_of_selects (List.mem_of_find?_eq_some hfind) hw)
  next hfind =>
    obtain ⟨r, hr, hw, _⟩ | ⟨hd, _⟩ := decodeInstr_reads w
    · exact absurd hw (List.find?_eq_none.1 hfind r hr)
    · exact decodeWord_of_none hd

/-! The unknown words (R98). -/

theorem unknownClass_encode (i : Instr) : unknownClass (encode i) = none := by
  open Laws.EncodesKnownWord in
  cases i
  exacts [cls, ret, jp _, call _, seImm _ _, sneImm _ _, seReg _ _, ldImm _ _, addImm _ _, ldReg _ _, orReg _ _,
    andReg _ _, xorReg _ _, addReg _ _, sub _ _, shr _ _, subn _ _, shl _ _, sneReg _ _, ldI _, jpV0 _, rnd _ _,
    drw _ _ _, skp _, sknp _, ldVxDt _, ldVxK _, ldDtVx _, ldStVx _, addI _, ldF _, ldB _, stRegs _, ldRegs _]

/-- R98: a word is an instruction's, or it is unknown and in one of the listed classes. -/
theorem decodeWord_cases (w : Word) :
    (unknownClass w = none ∧ ∃ i, decodeWord w = .instr i) ∨ (unknownClass w ≠ none ∧ decodeWord w = .unknown w) := by
  rcases hd : decodeInstr w with _ | i
  · obtain ⟨_, _, _, hsome⟩ | ⟨_, hclass⟩ := decodeInstr_reads w
    · exact absurd (hd.symm.trans hsome) nofun
    · exact .inr ⟨hclass, decodeWord_of_none hd⟩
  · have hclass := unknownClass_encode i
    rw [encode_of_decodeInstr hd] at hclass
    exact .inl ⟨hclass, i, decodeWord_of_some hd⟩

/-- Settles O4, by the two kinds of words. -/
theorem unknownWordsAreTheListedOnes : Obligations.UnknownWordsAreTheListedOnes := by
  intro w
  obtain ⟨hclass, i, hd⟩ | ⟨hclass, hd⟩ := decodeWord_cases w
  · simp [hclass, hd]
  · simp [hclass, hd]

end Sys2Proof
end

section
/-! The step cycle (30_encoding.md R94, R97; 60_exceptions.md R200): a step always answers a next state, and an unknown
word changes nothing but PC and the outputs. -/

namespace Sys2Proof.Machine

/-- Every instruction answers a next state: the stack has room for a call (D15), and a data address fault is a next
state (D14). -/
theorem exec_next (i : Instr) (s : State) : ∃ t, exec i s = .next t := by
  cases i
  case call nnn =>
    rw [exec, execCall, if_pos (stackHasRoom_eq s)]
    exact ⟨_, rfl⟩
  case ret | drw | ldVxK | ldB | stRegs | ldRegs =>
    simp only [exec, execRet, execDrw, execLdVxK, execLdB, execStRegs, execLdRegs]
    split <;> exact ⟨_, rfl⟩
  all_goals exact ⟨_, rfl⟩

/-- Settles O11: a step stays halted, runs an instruction or an unknown word, or takes the fetch fault. -/
theorem everyStepAnswersNextState : Obligations.EveryStepAnswersNextState := by
  intro s
  unfold step
  split_ifs
  · exact ⟨_, rfl⟩
  · split
    · exact exec_next _ _
    · exact ⟨_, rfl⟩
  · exact ⟨_, rfl⟩

/-- R97: a step that may fetch runs the unknown word it fetched. -/
theorem step_of_decodes_unknown {s : State} {w : Word} (hr : s.halt = false) (hpc : s.pc.toNat + 1 < 4096)
    (hd : decodeWord (fetchWord s s.pc.toNat) = .unknown w) : step s = execUnknown w s.beginStep := by
  rw [step, if_neg (by simp [hr]), if_pos ((fetchLegal_iff s).2 hpc), hd]

/-- Settles O7, by the two kinds of words. -/
theorem stepRunsTheDecodedInstruction : Obligations.StepRunsTheDecodedInstruction :=
  fun _ hr hpc => ⟨fun _ => step_of_decodes_instr hr hpc, fun _ => step_of_decodes_unknown hr hpc⟩

theorem KeepsAllBut.beginStep {c : Changes} {s t : State} (h : KeepsAllBut c s t) (hc : c.continues = true)
    (hd : c.diag = true) : KeepsAllBut c s t.beginStep := by
  simpa [KeepsAllBut, hc, hd] using h

theorem next_advancesPc (s : State) : AdvancesPc 2 s s.next := BitVec.toNat_add s.pc 2

/-- Settles O8, from the unknown word's effect. -/
theorem unknownWordOnlyAdvances : Obligations.UnknownWordOnlyAdvances := by
  intro s w hr hpc hd
  refine ⟨_, step_of_decodes_unknown hr hpc hd, rfl, rfl, next_advancesPc s, ?_⟩
  exact ((KeepsAllBut.refl.beginStep rfl rfl).setDiag rfl).next rfl

end Sys2Proof.Machine
end

section
/-! Control transfer (40_control_transfer.md R121 to R129): RET and CALL as equations, what a conditional skip does to
PC, the targets of the jumps, and the round trip of a CALL and its RET. -/

namespace Sys2Proof.Machine

/-! RET and CALL (R121, R123). -/

/-- R121 on a stack with an entry: the top goes to PC as it stands. -/
theorem exec_ret_of_concat {s : State} {l : List Word} {w : Word} (h : s.stk = l ++ [w]) :
    exec .ret s = .next ((s.setStk l).setPc w) := by
  rw [exec, execRet, pop_concat h]

/-- R121 on the empty stack (C4). -/
theorem exec_ret_of_empty {s : State} (h : s.stk = []) : exec .ret s = .next (s.setDiag .emptyStackReturn).next := by
  rw [exec, execRet, pop_nil h]

/-- R123: there is room at every depth (D15, log 15). -/
theorem exec_call (nnn : Addr) (s : State) :
    exec (.call nnn) s = .next ((push (s.pc + 2) s).setPc (zextAddr nnn)) := by
  rw [exec, execCall, if_pos (stackHasRoom_eq s)]

theorem KeepsAllBut.push {c : Changes} {s t : State} {w : Word} (h : KeepsAllBut c s t) (hc : c.stk = true) :
    KeepsAllBut c s (push w t) := h.setStk hc

/-- Settles O17, by the two kinds of stack. -/
theorem retPopsOrFallsThrough : Obligations.RetPopsOrFallsThrough := by
  refine fun s => ⟨fun l w hstk => ?_, fun hstk => ?_⟩
  · exact ⟨_, exec_ret_of_concat hstk, rfl, rfl, (KeepsAllBut.refl.setStk rfl).setPc rfl⟩
  · exact ⟨_, exec_ret_of_empty hstk, rfl, hstk, next_advancesPc _, (KeepsAllBut.refl.setDiag rfl).next rfl⟩

/-- Settles O19, from the equation of CALL. -/
theorem callPushesTheReturnAddress : Obligations.CallPushesTheReturnAddress := fun nnn s =>
  ⟨_, s.pc + 2, exec_call nnn s, BitVec.toNat_add s.pc 2, rfl, zextAddr_toNat nnn,
    (KeepsAllBut.refl.push rfl).setPc rfl⟩

/-! The jumps (R122, R128). -/

/-- Settles O18: the target is the address, widened. -/
theorem jpSetsPc : Obligations.JpSetsPc := fun nnn _ => ⟨_, rfl, zextAddr_toNat nnn, KeepsAllBut.refl.setPc rfl⟩

/-- R128: 12 bits and 8 bits add up within 16. -/
theorem jpV0_target_toNat (nnn : Addr) (b : Byte) : (zextAddr nnn + zextByte b).toNat = nnn.toNat + b.toNat := by
  have := nnn.isLt
  have := b.isLt
  rw [BitVec.toNat_add, zextAddr_toNat, zextByte, BitVec.zeroExtend, BitVec.toNat_setWidth]
  omega

/-- Settles O22, from the number of the target. -/
theorem offsetJumpAddsV0 : Obligations.OffsetJumpAddsV0 := fun nnn s =>
  ⟨_, rfl, jpV0_target_toNat nnn (s.getV 0), KeepsAllBut.refl.setPc rfl⟩

/-! The conditional skips (R124 to R127). -/

section
variable (s : State) (p : Prop) [Decidable p]

/-- R7: `if p then skip else next`. -/
theorem skipIf_advancesPc : AdvancesPc (if p then 4 else 2) s (s.skipIf p) := by
  by_cases hp : p
  · rw [if_pos hp, decide_eq_true hp]
    exact BitVec.toNat_add s.pc 4
  · rw [if_neg hp, decide_eq_false hp]
    exact next_advancesPc s

/-- R7: `if not p then skip else next`, read with its branches exchanged. -/
theorem skipIf_not_advancesPc : AdvancesPc (if p then 2 else 4) s (s.skipIf (¬ p)) := by
  rw [← ite_not]
  exact skipIf_advancesPc s (¬ p)

end

/-- Settles O20, from what a skip does to PC on a test and on its negation. -/
theorem immediateSkipsTestEquality : Obligations.ImmediateSkipsTestEquality := fun x nn s =>
  ⟨⟨_, rfl, skipIf_advancesPc s (s.getV x = nn), KeepsAllBut.refl.skipIf rfl⟩,
    ⟨_, rfl, skipIf_not_advancesPc s (s.getV x = nn), KeepsAllBut.refl.skipIf rfl⟩⟩

/-- Settles O21, from what a skip does to PC on a test and on its negation. -/
theorem registerSkipsTestEquality : Obligations.RegisterSkipsTestEquality := fun x y s =>
  ⟨⟨_, rfl, skipIf_advancesPc s (s.getV x = s.getV y), KeepsAllBut.refl.skipIf rfl⟩,
    ⟨_, rfl, skipIf_not_advancesPc s (s.getV x = s.getV y), KeepsAllBut.refl.skipIf rfl⟩⟩

/-! The round trip (R129). -/

/-- R8: a schedule goes on from the state its first step answers. -/
theorem runEvents_step {es : List Event} {s t : State} (h : step s = .next t) :
    runEvents (.step :: es) s = runEvents es t := by
  rw [runEvents, applyEvent, h]

/-- The state after a step that runs `CALL nnn` (R94, R123). -/
def State.afterCall (s : State) (nnn : Addr) : State := (push (s.pc + 2) s.beginStep).setPc (zextAddr nnn)

section
variable {s : State} {nnn : Addr}

theorem step_call (hr : s.halt = false) (hpc : s.pc.toNat + 1 < 4096)
    (hd : decodeWord (fetchWord s s.pc.toNat) = .instr (.call nnn)) : step s = .next (s.afterCall nnn) :=
  (step_of_decodes_instr hr hpc hd).trans (exec_call nnn s.beginStep)

theorem afterCall_pc_toNat : (s.afterCall nnn).pc.toNat = nnn.toNat := zextAddr_toNat nnn

/-- CALL writes no memory, so the callee's first word is the one that stood there. -/
theorem fetchWord_afterCall (a : Nat) : fetchWord (s.afterCall nnn) a = fetchWord s a := rfl

/-- A `RET` at the target of a CALL takes back what that CALL pushed, whatever lies below it: of the two, only the PC
and the outputs of a step are left. -/
theorem step_ret_afterCall (hr : s.halt = false) (hpc : nnn.toNat + 1 < 4096)
    (hd : decodeWord (fetchWord s nnn.toNat) = .instr .ret) :
    step (s.afterCall nnn) = .next (s.beginStep.setPc (s.pc + 2)) := by
  have hrun : (s.afterCall nnn).halt = false := hr
  have hlegal : (s.afterCall nnn).pc.toNat + 1 < 4096 := by rwa [afterCall_pc_toNat]
  have hfetch : decodeWord (fetchWord (s.afterCall nnn) (s.afterCall nnn).pc.toNat) = .instr .ret := by
    rw [fetchWord_afterCall, afterCall_pc_toNat, hd]
  have hstk : (s.afterCall nnn).beginStep.stk = s.stk ++ [s.pc + 2] := rfl
  exact (step_of_decodes_instr hrun hlegal hfetch).trans (exec_ret_of_concat hstk)

end

/-- Settles O23: RET pops what CALL pushed, and `PC + 2` does not wrap where the fetch of the CALL was legal. -/
theorem callThenReturnComesBack : Obligations.CallThenReturnComesBack := by
  intro s nnn hr hpc hnnn hcall hret
  have hrun : runEvents [.step, .step] s = .next (s.beginStep.setPc (s.pc + 2)) :=
    (runEvents_step (step_call hr hpc hcall)).trans (runEvents_step (step_ret_afterCall hr hnnn hret))
  have hpc2 : (s.pc + 2).toNat = s.pc.toNat + 2 := by bv_omega
  exact ⟨_, hrun, hpc2, rfl, (KeepsAllBut.refl.beginStep rfl rfl).setPc rfl⟩

end Sys2Proof.Machine
end

section
/-! Immediate and random (41_immediate_random.md R140 to R142): the three end in one write of a register and `next`. -/

namespace Sys2Proof.Machine

/-! The shared ending: a register write, then `next`. -/

section
variable (s : State) (x : Reg) (b : Byte)

theorem setV_next_getV_same : (s.setV x b).next.getV x = b := s.setV_getV_same x b

theorem setV_next_advancesPc : AdvancesPc 2 s (s.setV x b).next := next_advancesPc (s.setV x b)

end

/-- A frame that lists the written register and PC also covers this ending. -/
theorem KeepsAllBut.setV_next {c : Changes} {s t : State} {x : Reg} {b : Byte} (h : KeepsAllBut c s t)
    (hx : x ∈ c.regs) (hc : c.pc = true) : KeepsAllBut c s (t.setV x b).next := (h.setV hx).next hc

/-- Settles O24, from the shared ending. -/
theorem loadImmediateSetsTheRegister : Obligations.LoadImmediateSetsTheRegister := fun x nn s =>
  ⟨_, rfl, setV_next_getV_same s x nn, setV_next_advancesPc s x nn,
    KeepsAllBut.refl.setV_next (List.mem_singleton_self x) rfl⟩

/-- Settles O25, from the shared ending: a sum of bytes wraps modulo 256. -/
theorem addImmediateWrapsWithoutFlag : Obligations.AddImmediateWrapsWithoutFlag := by
  intro x nn s
  have hsum : ((s.setV x (s.getV x + nn)).next.getV x).toNat = ((s.getV x).toNat + nn.toNat) % 256 := by
    rw [setV_next_getV_same, BitVec.toNat_add]
  exact ⟨_, rfl, hsum, setV_next_advancesPc s x _, KeepsAllBut.refl.setV_next (List.mem_singleton_self x) rfl⟩

/-! The masked byte (R142). -/

theorem randomMasked_getV_same (r : Byte) (x : Reg) (nn : Byte) (s : State) :
    (randomMasked r x nn s).getV x = r &&& nn := setV_next_getV_same s x (r &&& nn)

theorem masked_and_not_mask (r nn : Byte) : r &&& nn &&& ~~~nn = 0 := by
  rw [BitVec.and_assoc, BitVec.and_not_self]
  exact BitVec.and_zero

/-- R142, R7 `draw8()`: the byte is the next free one, and the draw is counted. -/
theorem exec_rnd (x : Reg) (nn : Byte) (s : State) :
    exec (.rnd x nn) s = .next (randomMasked (Config.freeByte s.free) x nn (s.drew 1)) := rfl

/-- Settles O26: whatever byte is drawn, the register holds it masked. -/
theorem randomByteIsMasked : Obligations.RandomByteIsMasked := by
  refine ⟨fun x nn s => ?_, randomMasked_getV_same⟩
  have hv := randomMasked_getV_same (Config.freeByte s.free) x nn (s.drew 1)
  refine ⟨_, exec_rnd x nn s, hv, ?_, ?_, rfl, setV_next_advancesPc (s.drew 1) x _,
    (KeepsAllBut.refl.drew rfl).setV_next (List.mem_singleton_self x) rfl⟩
  · rw [hv, masked_and_not_mask]
  · rintro rfl
    rw [hv]
    exact BitVec.and_zero

end Sys2Proof.Machine
end

section
/-! Register-to-register operations (42_alu.md R150 to R159): copy, OR, AND, XOR end in one write of a register and
`next`; the other five end in the result, then the flag, then `next` (`finishWithFlag`). -/

namespace Sys2Proof.Machine

/-- Settles O27, from the shared ending of the instructions that write no flag. -/
theorem copyMovesTheRegister : Obligations.CopyMovesTheRegister := fun x _ s =>
  ⟨_, rfl, setV_next_getV_same s x _, setV_next_advancesPc s x _,
    KeepsAllBut.refl.setV_next (List.mem_singleton_self x) rfl⟩

/-- A result known bit by bit ends up in `V[x]`, and no flag is written. -/
theorem setV_next_bitwise {x : Reg} {result : Byte} {bit : Nat → Bool} (s : State)
    (h : ∀ j, result.getLsbD j = bit j) :
    ∃ t, (.next (s.setV x result).next : Result) = .next t ∧ AdvancesPc 2 s t ∧
      KeepsAllBut { regs := [x], pc := true } s t ∧ ∀ j < 8, (t.getV x).getLsbD j = bit j := by
  refine ⟨_, rfl, setV_next_advancesPc s x _, KeepsAllBut.refl.setV_next (List.mem_singleton_self x) rfl,
    fun j _ => ?_⟩
  rw [setV_next_getV_same, h]

/-- Settles O28: the three operations are the bitwise ones. -/
theorem logicIsBitwiseWithoutFlag : Obligations.LogicIsBitwiseWithoutFlag := fun _ _ s =>
  ⟨setV_next_bitwise s fun _ => BitVec.getLsbD_or, setV_next_bitwise s fun _ => BitVec.getLsbD_and,
    setV_next_bitwise s fun _ => BitVec.getLsbD_xor⟩

/-! The ending of a flag writer (R150, D9): the flag is written last, so with `x = 15` it is the flag that stands. -/

section
variable (s : State) (x : Reg) (result flag : Byte)

theorem finishWithFlag_getV_vf : (finishWithFlag x result flag s).getV vf = flag :=
  setV_next_getV_same (s.setV x result) vf flag

theorem finishWithFlag_getV_of_ne_vf (hx : x ≠ vf) : (finishWithFlag x result flag s).getV x = result := by
  rw [finishWithFlag, State.next, State.setPc_getV, State.setV_getV_ne _ _ _ _ hx, State.setV_getV_same]

theorem finishWithFlag_advancesPc : AdvancesPc 2 s (finishWithFlag x result flag s) :=
  setV_next_advancesPc (s.setV x result) vf flag

theorem finishWithFlag_keepsAllBut_vf :
    KeepsAllBut { regs := [x, vf], pc := true } s (finishWithFlag x result flag s) :=
  (KeepsAllBut.refl.setV List.mem_cons_self).setV_next (List.mem_cons_of_mem x (List.mem_singleton_self vf)) rfl

end

/-- All of the ending: `ofResult` says what is claimed of the result, `ofFlag` what is claimed of the flag. -/
theorem finishWithFlag_spec (s : State) (x : Reg) {result flag : Byte} (ofResult ofFlag : Byte → Prop)
    (hr : ofResult result) (hf : ofFlag flag) :
    ∃ t, (.next (finishWithFlag x result flag s) : Result) = .next t ∧ (x ≠ vf → ofResult (t.getV x)) ∧
      ofFlag (t.getV vf) ∧ AdvancesPc 2 s t ∧ KeepsAllBut { regs := [x, vf], pc := true } s t := by
  refine ⟨_, rfl, fun hx => ?_, ?_, finishWithFlag_advancesPc s x _ _, finishWithFlag_keepsAllBut_vf s x _ _⟩
  · rwa [finishWithFlag_getV_of_ne_vf s x _ _ hx]
  · rwa [finishWithFlag_getV_vf]

/-! The flags and the difference as numbers. -/

theorem carryFlag_toNat (a b : Byte) : (carryFlag a b).toNat = if 255 < a.toNat + b.toNat then 1 else 0 := by
  simp [carryFlag, flagByte_toNat]

theorem notBorrowFlag_toNat (a b : Byte) : (notBorrowFlag a b).toNat = if b.toNat ≤ a.toNat then 1 else 0 := by
  simp [notBorrowFlag, flagByte_toNat]

/-- A bit as a flag is a digit of the number. -/
theorem flagByte_getLsbD_toNat (a : Byte) (j : Nat) : (flagByte (a.getLsbD j)).toNat = a.toNat / 2 ^ j % 2 := by
  rw [flagByte_toNat, ← Nat.toNat_testBit, BitVec.testBit_toNat, Bool.toNat, Bool.cond_eq_ite]

theorem shiftRightFlag_toNat (a : Byte) : (shiftRightFlag a).toNat = a.toNat % 2 := by
  rw [shiftRightFlag, flagByte_getLsbD_toNat, Nat.pow_zero, Nat.div_one]

theorem shiftLeftFlag_toNat (a : Byte) : (shiftLeftFlag a).toNat = a.toNat / 128 := by
  have ha := a.isLt
  rw [shiftLeftFlag, flagByte_getLsbD_toNat]
  omega

/-- The difference of two bytes, on integers: it wraps modulo 256 when it borrows. -/
theorem sub_toNat_int (a b : Byte) : ((a - b).toNat : Int) = ((a.toNat : Int) - b.toNat) % 256 := by
  have hb := b.isLt
  rw [BitVec.toNat_sub]
  omega

/-- Settles O29: the sum of two bytes wraps modulo 256. -/
theorem addWritesSumThenCarry : Obligations.AddWritesSumThenCarry := fun x y s =>
  finishWithFlag_spec s x (·.toNat = _) (·.toNat = _) (BitVec.toNat_add (s.getV x) (s.getV y)) (carryFlag_toNat _ _)

/-- Settles O30, from the difference on integers. -/
theorem subWritesDifferenceThenNotBorrow : Obligations.SubWritesDifferenceThenNotBorrow := fun x y s =>
  finishWithFlag_spec s x (fun r => (r.toNat : Int) = _) (·.toNat = _) (sub_toNat_int (s.getV x) (s.getV y))
    (notBorrowFlag_toNat _ _)

/-- Settles O32, from the difference on integers with its operands exchanged. -/
theorem subnWritesReverseDifferenceThenNotBorrow : Obligations.SubnWritesReverseDifferenceThenNotBorrow := fun x y s =>
  finishWithFlag_spec s x (fun r => (r.toNat : Int) = _) (·.toNat = _) (sub_toNat_int (s.getV y) (s.getV x))
    (notBorrowFlag_toNat _ _)

/-- Settles O31: the shift's operand is `V[x]` (D8), and a right shift halves it. -/
theorem shiftRightHalvesThenWritesBitZero : Obligations.ShiftRightHalvesThenWritesBitZero := by
  intro x y s
  have hhalf : (s.getV x >>> 1).toNat = (s.getV x).toNat / 2 := by
    rw [BitVec.toNat_ushiftRight, Nat.shiftRight_eq_div_pow, Nat.pow_one]
  rw [exec, execShr, shiftOperand_eq]
  exact finishWithFlag_spec s x (·.toNat = _) (·.toNat = _) hhalf (shiftRightFlag_toNat _)

/-- Settles O33: the shift's operand is `V[x]` (D8), and a left shift doubles it modulo 256. -/
theorem shiftLeftDoublesThenWritesBitSeven : Obligations.ShiftLeftDoublesThenWritesBitSeven := by
  intro x y s
  have hdouble : (s.getV x <<< 1).toNat = (s.getV x).toNat * 2 % 256 := by
    rw [BitVec.toNat_shiftLeft, Nat.shiftLeft_eq, Nat.pow_one]
  rw [exec, execShl, shiftOperand_eq]
  exact finishWithFlag_spec s x (·.toNat = _) (·.toNat = _) hdouble (shiftLeftFlag_toNat _)

end Sys2Proof.Machine
end

section
/-! Index register and memory transfers (43_index_memory.md R170 to R176): the three writers of `I` end in one write
of `I` and `next`; the three transfers complete, or latch the data address fault (`dataAddressFault_latched`). -/

namespace Sys2Proof.Machine

/-! The writers of `I` (R170 to R172). -/

/-- All of the ending that the three writers of `I` share. -/
theorem setI_next_spec (s : State) {w : Word} {n : Nat} (hw : w.toNat = n) :
    ∃ t, (.next (s.setI w).next : Result) = .next t ∧ t.i.toNat = n ∧ AdvancesPc 2 s t ∧
      KeepsAllBut { i := true, pc := true } s t :=
  ⟨_, rfl, hw, next_advancesPc (s.setI w), (KeepsAllBut.refl.setI rfl).next rfl⟩

/-- Settles O34: the address is widened to 16 bits. -/
theorem loadIndexSetsI : Obligations.LoadIndexSetsI := fun nnn s => setI_next_spec s (zextAddr_toNat nnn)

theorem zextByte_toNat (b : Byte) : (zextByte b).toNat = b.toNat := BitVec.toNat_setWidth_of_le (by decide)

/-- Settles O35: a sum of words wraps modulo 65536 (D11). -/
theorem addIndexWrapsWithoutFlag : Obligations.AddIndexWrapsWithoutFlag := by
  intro x s
  have hsum : (s.i + zextByte (s.getV x)).toNat = (s.i.toNat + (s.getV x).toNat) % 65536 := by
    rw [BitVec.toNat_add, zextByte_toNat]
  exact setI_next_spec s hsum

/-- Settles O36, from the number of a glyph's address. -/
theorem fontAddressIsFiveTimesTheDigit : Obligations.FontAddressIsFiveTimesTheDigit := fun x s =>
  setI_next_spec s (glyphAddress_toNat (lowDigit (s.getV x)))

/-! What the transfers share: PC after one that completes, the fault of one that does not. -/

theorem next_advancesPc_of_pc_eq {s t : State} (h : t.pc = s.pc) : AdvancesPc 2 s t.next := by
  rw [AdvancesPc, ← h]
  exact next_advancesPc t

theorem toNat_ofNat_of_lt {w n : Nat} (h : n < 2 ^ w) : (BitVec.ofNat w n).toNat = n := by
  rw [BitVec.toNat_ofNat, Nat.mod_eq_of_lt h]

/-- R202, R207: the fault records the first address out of range, which fits 16 bits, and PC stays, whatever `t` the
unspecified locations make of `s` (D13). -/
theorem dataAddressFault_latched {s t : State} (hpc : t.pc = s.pc) :
    ∃ (u : State) (a : Word), (.next (raiseDataAddress (max s.i.toNat 4096) t) : Result) = .next u ∧ u.halt = true ∧
      u.cause = .dataAddressFault a ∧ a.toNat = max s.i.toNat 4096 ∧ u.pc = s.pc := by
  have := s.i.isLt
  have hfits : max s.i.toNat 4096 < 2 ^ 16 := by omega
  exact ⟨_, _, rfl, rfl, rfl, toNat_ofNat_of_lt hfits, hpc⟩

/-! The decimal digits (R173). -/

theorem bcdDigits_hundreds_toNat (b : Byte) : ((bcdDigits b).getD 0 0).toNat = b.toNat / 100 :=
  toNat_ofNat_of_lt (by have := b.isLt; omega)

theorem bcdDigits_tens_toNat (b : Byte) : ((bcdDigits b).getD 1 0).toNat = b.toNat / 10 % 10 :=
  toNat_ofNat_of_lt (by omega)

theorem bcdDigits_ones_toNat (b : Byte) : ((bcdDigits b).getD 2 0).toNat = b.toNat % 10 :=
  toNat_ofNat_of_lt (by omega)

/-- Settles O38, by the two sides of the end of memory: the three digits read back where they were written. -/
theorem bcdStoresThreeDigits : Obligations.BcdStoresThreeDigits := by
  refine fun x s => ⟨fun hr hwf => ?_, fun hr => ?_⟩
  · have hdigit (j : Nat) (hj : j < 3) :
        (writeInRange s.i.toNat (bcdDigits (s.getV x)) s).next.byteAt (dataAddress s j) =
          (bcdDigits (s.getV x)).getD j 0 :=
      writeInRange_byteAt_add (bytes := bcdDigits (s.getV x)) hwf (Nat.succ_le_of_lt hr) hj
    refine ⟨_, execLdB_in_range x s hr, ?_, ?_, ?_, next_advancesPc_of_pc_eq (writeInRange_pc _ _ s),
      (KeepsAllBut.refl.writeInRange le_rfl le_rfl).next rfl⟩
    · rw [hdigit 0 (by decide), bcdDigits_hundreds_toNat]
    · rw [hdigit 1 (by decide), bcdDigits_tens_toNat]
    · rw [hdigit 2 (by decide), bcdDigits_ones_toNat]
  · rw [exec, execLdB_out_of_range x s hr]
    exact dataAddressFault_latched (scrambleBytes_pc _ _ s)

/-! The register transfers that complete (R174, R175). -/

/-- The state after `LD [I],Vx` in range (R174). -/
def State.afterStRegs (s : State) (x : Reg) : State := (writeInRange s.i.toNat (regsUpTo x s) s).next

/-- The state after `LD Vx,[I]` in range (R175). -/
def State.afterLdRegs (s : State) (x : Reg) : State :=
  (setRegsFrom 0 ((List.range (x.val + 1)).map fun j => s.byteAt (s.i.toNat + j)) s).next

section
variable (s : State) (x r : Reg)

theorem exec_stRegs_in_range (hr : s.i.toNat + x.val < 4096) : exec (.stRegs x) s = .next (s.afterStRegs x) :=
  execStRegs_in_range x s hr

theorem exec_ldRegs_in_range (hr : s.i.toNat + x.val < 4096) : exec (.ldRegs x) s = .next (s.afterLdRegs x) :=
  execLdRegs_in_range x s hr

@[simp] theorem afterStRegs_i : (s.afterStRegs x).i = s.i := writeInRange_i _ _ s

@[simp] theorem afterStRegs_getV : (s.afterStRegs x).getV r = s.getV r := writeInRange_getV _ _ s r

theorem afterStRegs_byteAt (hr : s.i.toNat + x.val < 4096) (hwf : Memory.wf s.mem = true) (hx : r ≤ x) :
    (s.afterStRegs x).byteAt (s.i.toNat + r.val) = s.getV r := storedRegs_byteAt hwf hr hx

@[simp] theorem afterLdRegs_i : (s.afterLdRegs x).i = s.i := setRegsFrom_i _ _ s

@[simp] theorem afterLdRegs_byteAt (a : Nat) : (s.afterLdRegs x).byteAt a = s.byteAt a := setRegsFrom_byteAt _ _ s a

theorem afterLdRegs_getV :
    (s.afterLdRegs x).getV r = if r ≤ x then s.byteAt (s.i.toNat + r.val) else s.getV r := loadedRegs_getV x r s

/-- Reading back what the store wrote gives every register its own byte. -/
theorem afterLdRegs_afterStRegs_getV (hr : s.i.toNat + x.val < 4096) (hwf : Memory.wf s.mem = true) :
    ((s.afterStRegs x).afterLdRegs x).getV r = s.getV r := by
  rw [afterLdRegs_getV, afterStRegs_i]
  by_cases hx : r ≤ x
  · rw [if_pos hx, afterStRegs_byteAt s x r hr hwf hx]
  · rw [if_neg hx, afterStRegs_getV]

theorem afterStRegs_keepsAllBut :
    KeepsAllBut { pc := true, memFrom := dataAddress s 0, memLen := x.val + 1 } s (s.afterStRegs x) :=
  (KeepsAllBut.refl.writeInRange le_rfl (by rw [regsUpTo_length])).next rfl

theorem afterLdRegs_keepsAllBut : KeepsAllBut { regs := regsThrough x, pc := true } s (s.afterLdRegs x) := by
  refine (KeepsAllBut.refl.setRegsFrom fun q _ hq => (mem_regsThrough x q).2 (Fin.le_def.2 ?_)).next rfl
  rw [List.length_map, List.length_range] at hq
  omega

end

/-- Settles O39, by the two sides of the end of memory. -/
theorem storeRegistersWritesTheRun : Obligations.StoreRegistersWritesTheRun := by
  refine fun x s => ⟨fun hr hwf => ?_, fun hr => ?_⟩
  · exact ⟨_, exec_stRegs_in_range s x hr, fun k hk => afterStRegs_byteAt s x k hr hwf hk,
      next_advancesPc_of_pc_eq (writeInRange_pc _ _ s), afterStRegs_keepsAllBut s x⟩
  · rw [exec, execStRegs_out_of_range x s hr]
    exact dataAddressFault_latched (scrambleBytes_pc _ _ s)

/-- Settles O40, by the two sides of the end of memory. -/
theorem loadRegistersReadsTheRun : Obligations.LoadRegistersReadsTheRun := by
  refine fun x s => ⟨fun hr => ?_, fun hr => ?_⟩
  · exact ⟨_, exec_ldRegs_in_range s x hr, fun k hk => (afterLdRegs_getV s x k).trans (if_pos hk),
      next_advancesPc_of_pc_eq (setRegsFrom_pc _ _ s), afterLdRegs_keepsAllBut s x⟩
  · rw [exec, execLdRegs_out_of_range x s hr]
    exact dataAddressFault_latched (scrambleRegs_pc x s)

/-- Settles O41: the store leaves `I` (D10), so the load is in range too and reads where the store wrote. -/
theorem storeThenLoadKeepsTheRegisters : Obligations.StoreThenLoadKeepsTheRegisters := by
  intro x s hr hwf
  have hload := exec_ldRegs_in_range (s.afterStRegs x) x (by rwa [afterStRegs_i])
  exact ⟨_, _, exec_stRegs_in_range s x hr, hload, fun r => afterLdRegs_afterStRegs_getV s x r hr hwf,
    (afterLdRegs_i _ x).trans (afterStRegs_i s x), afterLdRegs_byteAt _ x⟩

end Sys2Proof.Machine
end

section
/-! Display (44_display.md R180 to R185): `CLS`, a draw in range and out of range, and the same draw twice. -/

namespace Sys2Proof.Machine

/-- The state after `CLS` (R180). -/
def State.afterCls (s : State) : State := (s.setFb (Vector.replicate 32 (Vector.replicate 64 false))).next

theorem afterCls_cell (s : State) (r : Fin 32) (c : Fin 64) : s.afterCls.cell r c = false := by
  simp [State.afterCls, State.cell, State.next]

/-- Settles O44, from the state `CLS` leaves. -/
theorem clearUnlightsEveryCell : Obligations.ClearUnlightsEveryCell := fun s =>
  ⟨s.afterCls, rfl, afterCls_cell s, next_advancesPc_of_pc_eq rfl, (KeepsAllBut.refl.setFb rfl).next rfl⟩

/-! The blit of a whole sprite (R181, R183): at most 32 rows, so no cell is flipped twice. -/

section
variable {vx vy : Byte} {sprite : List Byte} (hlen : sprite.length ≤ 32) (d : Blit) {r : Fin 32} {c : Fin 64}
include hlen

theorem blitRows_fb_of_covers (h : spriteCovers vx vy sprite r c) :
    (blitRows vx vy 0 sprite d).fb[r][c] = !d.fb[r][c] := by
  rw [blitRows_eq, (flipAll_spec (spriteTargets_nodup vx vy 0 sprite hlen) d).1,
    if_pos ((mem_spriteTargets_iff_covers ..).2 h)]

theorem blitRows_fb_of_not_covers (h : ¬ spriteCovers vx vy sprite r c) :
    (blitRows vx vy 0 sprite d).fb[r][c] = d.fb[r][c] := by
  rw [blitRows_eq, (flipAll_spec (spriteTargets_nodup vx vy 0 sprite hlen) d).1,
    if_neg (mt (mem_spriteTargets_iff_covers ..).1 h)]

theorem blitRows_collision_iff :
    (blitRows vx vy 0 sprite d).collision = true ↔
      d.collision = true ∨ ∃ r c, spriteCovers vx vy sprite r c ∧ d.fb[r][c] = true := by
  rw [blitRows_eq, (flipAll_spec (spriteTargets_nodup vx vy 0 sprite hlen) d).2, Prod.exists]
  simp only [mem_spriteTargets_iff_covers]

end

theorem spriteAt_length_le (s : State) (n : Fin 16) : (spriteAt s n.val).length ≤ 32 := by
  rw [spriteAt, List.length_map, List.length_range]
  omega

/-! A draw in range. -/

section
variable (s : State) (x y : Reg) (n : Fin 16)

/-- The display and the collision of `DRW Vx,Vy,n` (R181). -/
def State.drwBlit : Blit := blitRows (s.getV x) (s.getV y) 0 (spriteAt s n.val) ⟨s.fb, false⟩

/-- The state after `DRW Vx,Vy,n` in range (R181). -/
def State.afterDrw : State :=
  ((s.setFb (s.drwBlit x y n).fb).setV vf (flagByte (s.drwBlit x y n).collision)).next

/-- The cells the sprite of `DRW Vx,Vy,n` covers (R181). -/
def State.DrwCovers (r : Fin 32) (c : Fin 64) : Prop := spriteCovers (s.getV x) (s.getV y) (spriteAt s n.val) r c

theorem exec_drw_in_range (h : n.val = 0 ∨ s.i.toNat + n.val ≤ 4096) :
    exec (.drw x y n) s = .next (s.afterDrw x y n) := execDrw_in_range x y n s h

theorem afterDrw_cell_of_covers {r : Fin 32} {c : Fin 64} (h : s.DrwCovers x y n r c) :
    (s.afterDrw x y n).cell r c = !s.cell r c := blitRows_fb_of_covers (spriteAt_length_le s n) _ h

theorem afterDrw_cell_of_not_covers {r : Fin 32} {c : Fin 64} (h : ¬ s.DrwCovers x y n r c) :
    (s.afterDrw x y n).cell r c = s.cell r c := blitRows_fb_of_not_covers (spriteAt_length_le s n) _ h

theorem drwBlit_collision_iff :
    (s.drwBlit x y n).collision = true ↔ ∃ r c, s.DrwCovers x y n r c ∧ s.cell r c = true :=
  (blitRows_collision_iff (spriteAt_length_le s n) _).trans (or_iff_right Bool.false_ne_true)

theorem afterDrw_getV_vf : (s.afterDrw x y n).getV vf = flagByte (s.drwBlit x y n).collision :=
  setV_next_getV_same _ vf _

theorem afterDrw_getV_vf_of_collision (h : ∃ r c, s.DrwCovers x y n r c ∧ s.cell r c = true) :
    (s.afterDrw x y n).getV vf = 1 := by
  rw [afterDrw_getV_vf, (drwBlit_collision_iff s x y n).2 h]
  rfl

theorem afterDrw_getV_vf_of_no_collision (h : ¬ ∃ r c, s.DrwCovers x y n r c ∧ s.cell r c = true) :
    (s.afterDrw x y n).getV vf = 0 := by
  rw [afterDrw_getV_vf, Bool.eq_false_iff.2 (mt (drwBlit_collision_iff s x y n).1 h)]
  rfl

theorem afterDrw_getV_of_ne_vf {r : Reg} (hr : r ≠ vf) : (s.afterDrw x y n).getV r = s.getV r :=
  State.setV_getV_ne _ _ _ _ hr

@[simp] theorem afterDrw_i : (s.afterDrw x y n).i = s.i := rfl

theorem afterDrw_keepsAllBut : KeepsAllBut { regs := [vf], pc := true, fb := true } s (s.afterDrw x y n) :=
  (KeepsAllBut.refl.setFb rfl).setV_next (List.mem_singleton_self vf) rfl

end

/-- Settles O45, by the two sides of the end of memory. -/
theorem drawFlipsTheCoveredCells : Obligations.DrawFlipsTheCoveredCells := by
  refine fun x y n s => ⟨fun hr => ?_, fun h0 hr => ?_⟩
  · exact ⟨_, exec_drw_in_range s x y n hr,
      fun _ _ => ⟨afterDrw_cell_of_covers s x y n, afterDrw_cell_of_not_covers s x y n⟩,
      afterDrw_getV_vf_of_collision s x y n, afterDrw_getV_vf_of_no_collision s x y n,
      next_advancesPc_of_pc_eq rfl, afterDrw_keepsAllBut s x y n⟩
  · rw [exec, execDrw_out_of_range x y n s h0 hr]
    exact dataAddressFault_latched (scrambleDisplay_pc s)

/-! The same draw twice (R185): the first leaves the coordinates, `I` and memory, so the second covers the same cells. -/

theorem fb_eq_of_cells {s t : State} (h : ∀ r c, s.cell r c = t.cell r c) : s.fb = t.fb := by
  ext j hj k hk : 2
  exact h ⟨j, hj⟩ ⟨k, hk⟩

section
variable (s : State) {x y : Reg} (n : Fin 16) (hx : x ≠ vf) (hy : y ≠ vf)
include hx hy

theorem drwCovers_afterDrw : (s.afterDrw x y n).DrwCovers x y n = s.DrwCovers x y n := by
  unfold State.DrwCovers
  rw [afterDrw_getV_of_ne_vf s x y n hx, afterDrw_getV_of_ne_vf s x y n hy]
  rfl

theorem afterDrw_afterDrw_fb : ((s.afterDrw x y n).afterDrw x y n).fb = s.fb := by
  refine fb_eq_of_cells fun r c => ?_
  have hcovers := drwCovers_afterDrw s n hx hy
  by_cases h : s.DrwCovers x y n r c
  · rw [afterDrw_cell_of_covers _ x y n (hcovers ▸ h), afterDrw_cell_of_covers s x y n h, Bool.not_not]
  · rw [afterDrw_cell_of_not_covers _ x y n (hcovers ▸ h), afterDrw_cell_of_not_covers s x y n h]

/-- The second draw collides where the first lit a covered cell, which is where that cell was unlit. -/
theorem afterDrw_collision_iff :
    (∃ r c, (s.afterDrw x y n).DrwCovers x y n r c ∧ (s.afterDrw x y n).cell r c = true) ↔
      ∃ r c, s.DrwCovers x y n r c ∧ s.cell r c = false := by
  rw [drwCovers_afterDrw s n hx hy]
  refine exists_congr fun r => exists_congr fun c => and_congr_right fun h => ?_
  rw [afterDrw_cell_of_covers s x y n h, Bool.not_eq_true']

end

/-- Settles O46: the first draw leaves `I` (D10), so the second is in range too and covers the same cells. -/
theorem drawingTwiceRestoresTheDisplay : Obligations.DrawingTwiceRestoresTheDisplay := by
  intro x y n s hx hy hr
  have hsecond := exec_drw_in_range (s.afterDrw x y n) x y n (by rwa [afterDrw_i])
  have hcollision := afterDrw_collision_iff s n hx hy
  refine ⟨_, _, exec_drw_in_range s x y n hr, hsecond, afterDrw_afterDrw_fb s n hx hy,
    fun hunlit => ?_, fun hlit => ?_⟩
  · exact afterDrw_getV_vf_of_collision _ x y n (hcollision.2 hunlit)
  · refine afterDrw_getV_vf_of_no_collision _ x y n (mt hcollision.1 ?_)
    rintro ⟨r, c, hcovers, hunlit⟩
    exact Bool.false_ne_true (hunlit.symm.trans (hlit r c hcovers))

end Sys2Proof.Machine
end

section
/-! Keys and timers (45_keys_timers.md R190 to R195): SKP and SKNP as skips on a key's level, LD Vx,K by its two
branches, and the three timer instructions. -/

namespace Sys2Proof.Machine

/-! The key skips (R190, R191). -/

section
variable {x : Reg} {s : State} {k : Key} (hk : k.val = (s.getV x).toNat % 16)
include hk

theorem keyPressed_eq_level : keyPressed x s = s.k[k] := by
  have hdigit : lowDigit (s.getV x) = k := Fin.ext hk.symm
  simp only [keyPressed, hdigit]

theorem exec_skp_of_keyNumber : exec (.skp x) s = .next (s.skipIf (s.k[k] = true)) := by
  rw [exec, execSkp, keyPressed_eq_level hk, Bool.decide_eq_true]

theorem exec_sknp_of_keyNumber : exec (.sknp x) s = .next (s.skipIf (¬ s.k[k] = true)) := by
  rw [exec, execSknp, keyPressed_eq_level hk, decide_not, Bool.decide_eq_true]

end

/-- Settles O47, from what a skip does to PC on a test and on its negation. -/
theorem keySkipsTestTheLowDigit : Obligations.KeySkipsTestTheLowDigit := fun _ s k hk =>
  ⟨⟨_, exec_skp_of_keyNumber hk, skipIf_advancesPc s (s.k[k] = true), KeepsAllBut.refl.skipIf rfl⟩,
    ⟨_, exec_sknp_of_keyNumber hk, skipIf_not_advancesPc s (s.k[k] = true), KeepsAllBut.refl.skipIf rfl⟩⟩

/-! The key wait (R192). -/

theorem byteOfDigit_toNat (d : Fin 16) : (byteOfDigit d).toNat = d.val :=
  toNat_ofNat_of_lt (d.isLt.trans (by decide))

theorem exec_ldVxK_of_some {s : State} {k : Key} (x : Reg) (h : lowestPressed s = some k) :
    exec (.ldVxK x) s = .next (s.setV x (byteOfDigit k)).next := by
  rw [exec, execLdVxK, h]

theorem exec_ldVxK_of_none {s : State} (x : Reg) (h : lowestPressed s = none) : exec (.ldVxK x) s = .next s := by
  rw [exec, execLdVxK, h]

/-- Settles O48, by the two outcomes of the scan for the lowest pressed key. -/
theorem keyWaitTakesTheLowestKeyOrWaits : Obligations.KeyWaitTakesTheLowestKeyOrWaits := by
  refine fun x s => ⟨fun k hpressed hlowest => ?_, fun hnone => ?_⟩
  · have hv : ((s.setV x (byteOfDigit k)).next.getV x).toNat = k.val := by
      rw [setV_next_getV_same, byteOfDigit_toNat]
    exact ⟨_, exec_ldVxK_of_some x (lowestPressed_some.2 ⟨hpressed, hlowest⟩), hv, setV_next_advancesPc s x _,
      KeepsAllBut.refl.setV_next (List.mem_singleton_self x) rfl⟩
  · exact exec_ldVxK_of_none x (lowestPressed_none.2 hnone)

/-! The timers (R193 to R195). -/

/-- Settles O49, from the ending that register writers share. -/
theorem readDelayTimerCopiesDt : Obligations.ReadDelayTimerCopiesDt := fun x s =>
  ⟨_, rfl, setV_next_getV_same s x s.dt, setV_next_advancesPc s x s.dt,
    KeepsAllBut.refl.setV_next (List.mem_singleton_self x) rfl⟩

/-- Settles O50, from the frames of the timer write and of `next`. -/
theorem setDelayTimerWritesDt : Obligations.SetDelayTimerWritesDt := fun x s =>
  ⟨_, rfl, rfl, next_advancesPc (s.setDt (s.getV x)), (KeepsAllBut.refl.setDt rfl).next rfl⟩

/-- R35, R195: the output `sound_on` is `ST != 0`. -/
theorem outputs_soundOn_iff (s : State) : (outputs s).soundOn = true ↔ s.st ≠ 0 := bne_iff_ne

/-- Settles O51, from the sound output as a condition on ST. -/
theorem setSoundTimerWritesSt : Obligations.SetSoundTimerWritesSt := fun x s =>
  ⟨_, rfl, rfl, outputs_soundOn_iff (s.setSt (s.getV x)).next, next_advancesPc (s.setSt (s.getV x)),
    (KeepsAllBut.refl.setSt rfl).next rfl⟩

end Sys2Proof.Machine
end

section
/-! The two fatal faults (60_exceptions.md R201, R202; 43_index_memory.md R176): an instruction ends in the data address
fault exactly when the last byte it accesses is out of range, and the fetch fault comes from the step alone. -/

namespace Sys2Proof.Machine

/-! Both sides of the end of memory, for every instruction (R202). -/

/-- R30, R94: a next state in which HALT, CAUSE and the answer are as they were. -/
def NextKeepsStatus (s : State) (r : Result) : Prop :=
  ∃ t, r = .next t ∧ t.halt = s.halt ∧ t.cause = s.cause ∧ t.continues = s.continues

section
variable (s : State)

theorem NextKeepsStatus.skipIf (c : Bool) : NextKeepsStatus s (.next (s.skipIf c)) :=
  ⟨_, rfl, s.skipIf_halt c, s.skipIf_cause c, s.skipIf_continues c⟩

theorem execRet_keepsStatus : NextKeepsStatus s (execRet s) := by
  rcases List.eq_nil_or_concat' s.stk with hnil | ⟨l, w, hstk⟩
  · exact ⟨_, exec_ret_of_empty hnil, rfl, rfl, rfl⟩
  · exact ⟨_, exec_ret_of_concat hstk, rfl, rfl, rfl⟩

theorem execLdVxK_keepsStatus (x : Reg) : NextKeepsStatus s (execLdVxK x s) := by
  unfold execLdVxK
  split <;> exact ⟨_, rfl, rfl, rfl, rfl⟩

/-- An instruction whose data bytes, if it has any, are all in range latches no fault. -/
theorem exec_keepsStatus_of_in_range (i : Instr) (h : dataBytes i = 0 ∨ s.i.toNat + dataBytes i ≤ 4096) :
    NextKeepsStatus s (exec i s) :=
  match i, h with
  | .drw x y n, h => ⟨_, exec_drw_in_range s x y n h, rfl, rfl, rfl⟩
  | .ldB x, h =>
    ⟨_, execLdB_in_range x s (h.resolve_left (Nat.succ_ne_zero _)), writeInRange_halt _ _ s,
      writeInRange_cause _ _ s, writeInRange_continues _ _ s⟩
  | .stRegs x, h =>
    ⟨_, execStRegs_in_range x s (h.resolve_left (Nat.succ_ne_zero _)), writeInRange_halt _ _ s,
      writeInRange_cause _ _ s, writeInRange_continues _ _ s⟩
  | .ldRegs x, h =>
    ⟨_, execLdRegs_in_range x s (h.resolve_left (Nat.succ_ne_zero _)), setRegsFrom_halt _ _ s,
      setRegsFrom_cause _ _ s, setRegsFrom_continues _ _ s⟩
  | .ret, _ => execRet_keepsStatus s
  | .call nnn, _ => ⟨_, exec_call nnn s, rfl, rfl, rfl⟩
  | .ldVxK x, _ => execLdVxK_keepsStatus s x
  | .seImm .., _ | .sneImm .., _ | .seReg .., _ | .sneReg .., _ | .skp _, _ | .sknp _, _ => .skipIf s _
  | .cls, _ | .jp _, _ | .jpV0 _, _ | .ldImm .., _ | .addImm .., _ | .ldReg .., _ | .orReg .., _ | .andReg .., _
  | .xorReg .., _ | .addReg .., _ | .sub .., _ | .shr .., _ | .subn .., _ | .shl .., _ | .rnd .., _ | .ldI _, _
  | .addI _, _ | .ldF _, _ | .ldVxDt _, _ | .ldDtVx _, _ | .ldStVx _, _ => ⟨_, rfl, rfl, rfl, rfl⟩

/-- An instruction that accesses a byte out of range raises the fault at the first such address, over a state in which
only what it could have written is unspecified (D13). `h0` rules out the instructions of no case. -/
theorem exec_raises_of_out_of_range (i : Instr) (h0 : dataBytes i ≠ 0) (h : 4096 < s.i.toNat + dataBytes i) :
    ∃ t, exec i s = .next (raiseDataAddress (max s.i.toNat 4096) t) ∧
      KeepsAllBut (faultChanges i s) s (raiseDataAddress (max s.i.toNat 4096) t) :=
  match i, h0, h with
  | .drw x y n, h0, h =>
    ⟨_, execDrw_out_of_range x y n s h0 h,
      (KeepsAllBut.refl.scrambleDisplay (List.mem_singleton_self vf) rfl rfl).raiseDataAddress rfl rfl⟩
  | .ldB x, _, h =>
    ⟨_, execLdB_out_of_range x s (Nat.le_of_lt_succ h),
      (KeepsAllBut.refl.scrambleBytes le_rfl le_rfl rfl).raiseDataAddress rfl rfl⟩
  | .stRegs x, _, h =>
    ⟨_, execStRegs_out_of_range x s (Nat.le_of_lt_succ h),
      (KeepsAllBut.refl.scrambleBytes le_rfl le_rfl rfl).raiseDataAddress rfl rfl⟩
  | .ldRegs x, _, h =>
    ⟨_, execLdRegs_out_of_range x s (Nat.le_of_lt_succ h),
      (KeepsAllBut.refl.scrambleRegs (fun q => (mem_regsThrough x q).2) rfl).raiseDataAddress rfl rfl⟩

end

/-- R202: the address the fault records is 4096, or `I` where `I` is past it. -/
theorem firstOutOfRange_toNat (i : Word) :
    (BitVec.ofNat 16 (max i.toNat 4096)).toNat = if i.toNat ≤ 4096 then 4096 else i.toNat := by
  have hi := i.isLt
  rw [toNat_ofNat_of_lt (by omega), max_def]

/-- Settles O42, by the two sides of the end of memory. -/
theorem dataFaultIsExactAndContained : Obligations.DataFaultIsExactAndContained := by
  refine fun i s _ => ⟨fun h0 h => ?_, exec_keepsStatus_of_in_range s i⟩
  obtain ⟨t, ht, hframe⟩ := exec_raises_of_out_of_range s i h0 h
  exact ⟨_, _, ht, rfl, rfl, firstOutOfRange_toNat s.i, rfl, hframe⟩

/-! The fetch fault (R201). -/

theorem step_of_fetch_past_end {s : State} (hr : s.halt = false) (hpc : 4096 ≤ s.pc.toNat + 1) :
    step s = .next (raiseFetch s) := by
  rw [step, if_neg (by simp [hr]), if_neg (by simp [(fetchLegal_eq_false_iff s).2 hpc])]

theorem KeepsAllBut.raiseFetch {c : Changes} {s t : State} (h : KeepsAllBut c s t) (hh : c.halt = true)
    (hc : c.continues = true) (hd : c.diag = true) : KeepsAllBut c s (raiseFetch t) := by
  simp_all [KeepsAllBut]

/-- The only fault an instruction latches is the data address fault. -/
theorem exec_cause {i : Instr} {s t : State} (h : exec i s = .next t) :
    t.cause = s.cause ∨ ∃ a, t.cause = .dataAddressFault a := by
  by_cases hr : dataBytes i = 0 ∨ s.i.toNat + dataBytes i ≤ 4096
  · obtain ⟨u, hu, _, hcause, _⟩ := exec_keepsStatus_of_in_range s i hr
    cases hu.symm.trans h
    exact .inl hcause
  · obtain ⟨u, hu, _⟩ := exec_raises_of_out_of_range s i (by omega) (by omega)
    cases hu.symm.trans h
    exact .inr ⟨_, rfl⟩

/-- A step that may fetch latches no other fault either: an unknown word latches none (R97). -/
theorem step_cause_of_fetch_legal {s t : State} (hr : s.halt = false) (hpc : s.pc.toNat + 1 < 4096)
    (h : step s = .next t) : t.cause = s.cause ∨ ∃ a, t.cause = .dataAddressFault a := by
  cases hd : decodeWord (fetchWord s s.pc.toNat) with
  | instr i => exact exec_cause (s := s.beginStep) ((step_of_decodes_instr hr hpc hd).symm.trans h)
  | unknown w =>
    cases (step_of_decodes_unknown hr hpc hd).symm.trans h
    exact .inl rfl

/-- Settles O9, by the two sides of the fetch check. -/
theorem fetchPastTheEndHalts : Obligations.FetchPastTheEndHalts := by
  refine fun s hr => ⟨fun hpc => ?_, fun hpc hnone t p ht hfetch => ?_⟩
  · exact ⟨_, step_of_fetch_past_end hr hpc, rfl, rfl, rfl, rfl, KeepsAllBut.refl.raiseFetch rfl rfl rfl⟩
  · rcases step_cause_of_fetch_legal hr hpc ht with hcause | ⟨a, hcause⟩
    · cases hfetch.symm.trans (hcause.trans hnone)
    · cases hfetch.symm.trans hcause

end Sys2Proof.Machine
end

section
/-! The host's events between steps, and the halted machine (60_exceptions.md R210, R212, R217). -/

namespace Sys2Proof.Machine

/-! Tick (R210). -/

/-- D17: truncated subtraction leaves a timer at 0 there. -/
theorem countDown_toNat (t : Byte) : (countDown t).toNat = t.toNat - 1 := by
  unfold countDown
  split_ifs <;> bv_omega

/-- Settles O52, from the number a timer counts down to. -/
theorem tickCountsBothTimersDown : Obligations.TickCountsBothTimersDown := by
  have htimer (b : Byte) : (countDown b).toNat = if 0 < b.toNat then b.toNat - 1 else 0 := by
    rw [countDown_toNat]
    split_ifs <;> omega
  exact fun s => ⟨_, rfl, htimer s.dt, htimer s.st, (KeepsAllBut.refl.setDt rfl).setSt rfl⟩

/-! A key's level (R212). -/

section
variable (s : State) (k : Key) (b : Bool)

theorem setKey_level_same : (setKey k b s).k[k] = b := Vector.getElem_set_self k.isLt

theorem setKey_level_ne {j : Key} (h : j ≠ k) : (setKey k b s).k[j] = s.k[j] :=
  Vector.getElem_set_ne k.isLt j.isLt (Fin.val_ne_of_ne h.symm)

end

theorem KeepsAllBut.setK {c : Changes} {s t : State} {k : Key} {b : Bool} (h : KeepsAllBut c s t)
    (hc : c.k = true) : KeepsAllBut c s (t.setK k b) := by
  simp_all [KeepsAllBut]

/-- Settles O53, from the levels after a key change. -/
theorem setKeyWritesOneLevel : Obligations.SetKeyWritesOneLevel := fun k b s =>
  ⟨_, rfl, setKey_level_same s k b, fun _ hj => setKey_level_ne s k b hj, KeepsAllBut.refl.setK rfl⟩

/-! The halted machine (R217, D14). -/

theorem step_of_halted {s : State} (h : s.halt = true) : step s = .next s.stayHalted := if_pos h

theorem KeepsAllBut.stayHalted {c : Changes} {s t : State} (h : KeepsAllBut c s t) (hc : c.continues = true)
    (hd : c.diag = true) : KeepsAllBut c s t.stayHalted := by
  simp_all [KeepsAllBut]

theorem load_next_eq {bytes : List Byte} {start : Nat} {s t : State} (h : load bytes start s = .next t) :
    t = writeInRange start bytes s := by
  unfold load at h
  split_ifs at h
  cases h
  rfl

/-- R217: only `reset` ends a halt. -/
theorem applyEvent_of_halted {e : Event} {s t : State} (hh : s.halt = true) (he : e ≠ .reset)
    (h : applyEvent e s = .next t) : t.halt = true ∧ t.cause = s.cause ∧ t.pc = s.pc := by
  cases e with
  | reset => exact absurd rfl he
  | load bytes start =>
    cases load_next_eq h
    exact ⟨(writeInRange_halt ..).trans hh, writeInRange_cause .., writeInRange_pc ..⟩
  | step =>
    cases (step_of_halted hh).symm.trans h
    exact ⟨hh, rfl, rfl⟩
  | tick =>
    cases h
    exact ⟨hh, rfl, rfl⟩
  | setKey k b =>
    cases h
    exact ⟨hh, rfl, rfl⟩

/-- Settles O10, event by event. -/
theorem haltedMachineStaysHalted : Obligations.HaltedMachineStaysHalted := fun s hh =>
  ⟨⟨_, step_of_halted hh, rfl, rfl, KeepsAllBut.refl.stayHalted rfl rfl⟩,
    ⟨_, rfl, countDown_toNat s.dt, countDown_toNat s.st⟩,
    fun k b => ⟨_, rfl, setKey_level_same s k b⟩,
    fun _ _ hwf hr => ⟨_, load_in_range s hr, fun _ hj => writeInRange_byteAt_add hwf hr hj⟩,
    fun _ _ he ht => applyEvent_of_halted hh he ht,
    ⟨_, rfl, rfl, rfl⟩⟩

end Sys2Proof.Machine
end
